-- ==== Sys2Proof/Word.lean ====
section
/-! DEFINITION. The word types of the block (rules R5, R22, R40, R46, R90, R100). All values are
unsigned (rule R11); every arithmetic that the spec does on exact integers is done on `toNat`. -/

namespace Sys2Proof

/-- A byte is 8 bits (rule R5); also a queue slot's flag byte (rule R41). -/
abbrev Byte := BitVec 8

/-- The 16-bit cursors, indices, counts, bit indices and byte addresses (rules R22, R40, R93 to R96). -/
abbrev Half := BitVec 16

/-- The 32-bit `data` of a response (rule R100). -/
abbrev Word := BitVec 32

/-- A buffer handle: 32 opaque bits (rule R41). -/
abbrev Handle := BitVec 32

/-- A command word (rule R90). -/
abbrev Cmd := BitVec 64

/-- The empty handle `EMPTY` (rule R41): the one handle value the block tells from the others. -/
abbrev emptyHandle : Handle := 0#32

/-- One bit as a 32-bit `data` value. -/
abbrev bitWord (b : Bool) : Word := if b then 1#32 else 0#32

end Sys2Proof
end

