-- ==== Sys2Proof/Config.lean ====
section
/-! DEFINITION. What an implementation of the block fixes (rule R4), the constants of rule R5, and the
free values: the values the spec leaves unspecified, each an opaque constant that no proof can see. -/

namespace Sys2Proof.Config

/-- The scan cap of 254 literal bytes (rule R5). -/
abbrev scanCap : Nat := 254

/-- The greatest width of a bit-range (rule R5). -/
abbrev maxWidth : Nat := 16

/-- The four parameters of rule R4; a machine carries its own, and no command changes them. -/
structure Params where
  /-- `N_A`, the length of `ARR` in bytes. -/
  nA : Nat
  /-- `N_S`, the length of `SRC` in bytes. -/
  nS : Nat
  /-- `N_CTX`, the number of encoder contexts. -/
  nCtx : Nat
  /-- `C`, the capacity of the queue in slots. -/
  c : Nat
  deriving DecidableEq, Repr

/-- The ranges of rule R4. -/
abbrev Params.InRange (p : Params) : Prop :=
  (1 ≤ p.nA ∧ p.nA ≤ 8192) ∧ (1 ≤ p.nS ∧ p.nS ≤ 65536) ∧
    (2 ≤ p.nCtx ∧ p.nCtx ≤ 16) ∧ (1 ≤ p.c ∧ p.c ≤ 65535)

/-- The values 95_test_vectors.md uses, which rule R4 lists and decision D4 calls the defaults; the reset
state carries them (DESIGN CHOICE, log entry 1: unsafe only where a claim speaks of `State.reset` itself). -/
def defaultParams : Params := ⟨64, 1024, 4, 4⟩

/-- FREE VALUE (rule R52, U8; log entry 2): the content of byte `addr` of `ARR` after the hardware reset
numbered `epoch`, until the byte is written. -/
opaque arrAfterReset (epoch addr : Nat) : Byte

/-- FREE VALUE (rule R52, U8; log entry 2): the content of byte `addr` of `SRC` after the hardware reset
numbered `epoch`, until the byte is written. -/
opaque srcAfterReset (epoch addr : Nat) : Byte

/-- FREE VALUE (rules R174, R262, U1; log entry 3): the `data` of the `draw`-th response that reports
`E_FINISHED`. -/
opaque finishedData (draw : Nat) : Word

/-- FREE VALUE (rules R213, R218, R220, U6; log entry 4): the flag byte a read of an unoccupied `slot`
answers, when the queue registers and the stored flag bytes are as given. -/
opaque staleFlag (ri uc : Half) (qf : List Byte) (slot : Nat) : Byte

end Sys2Proof.Config
end

