-- ==== Sys2Proof/Syntax.lean ====
section
/-! DEFINITION. The commands: one constructor per row of the opcode map (rule R98), its operands in the
order of the row's operand column, each at its field's width (rules R93 to R97). -/

namespace Sys2Proof

/-- A command of rule R98. Operand values are any the fields admit: a reserved `space` or a malformed
descriptor still selects its row (rule R105), and the meaning raises the fault. -/
inductive Instr where
  /-- MRD (rule R240). -/
  | mrd (space : BitVec 4) (addr : Half)
  /-- MWR (rule R242). -/
  | mwr (space : BitVec 4) (addr : Half) (data : Byte)
  /-- FSTAT (rule R244). -/
  | fstat
  /-- BRD (rule R140); `stop` is the field the spec calls `end`. -/
  | brd (start stop : Half)
  /-- BWR (rule R142). -/
  | bwr (start stop value : Half)
  /-- BGET (rule R144). -/
  | bget (offset : Half)
  /-- BPUT (rule R146). -/
  | bput (offset : Half) (bit : BitVec 1)
  /-- CINIT (rule R170). -/
  | cinit (ctx : BitVec 4) (base len : Half)
  /-- CFIN (rule R172). -/
  | cfin (ctx : BitVec 4)
  /-- CNEXT (rule R174). -/
  | cnext (ctx : BitVec 4)
  /-- CCOPY (rule R176): `ctx` is the destination, `ctx2` the source. -/
  | ccopy (ctx ctx2 : BitVec 4)
  /-- QAPPEND (rule R210). -/
  | qappend (handle : Handle) (flags : Byte)
  /-- QPOP (rule R212). -/
  | qpop
  /-- QREAD (rule R214). -/
  | qread
  /-- QPEEK (rule R216). -/
  | qpeek (index : Half)
  /-- QREADF (rule R218). -/
  | qreadf
  /-- QPEEKF (rule R220). -/
  | qpeekf (index : Half)
  /-- QSETF (rule R222). -/
  | qsetf (flags : Byte)
  /-- QRESET (rule R224). -/
  | qreset
  /-- QSTAT (rule R226). -/
  | qstat
  deriving DecidableEq, Repr

end Sys2Proof
end

