-- ==== Sys2Proof/WellFormed.lean ====
section
/-! DEFINITION. Which commands are well formed: those whose operand values no rule of the encoding calls
reserved (rule R108) or malformed (rule R109). Whether a well-formed command then faults depends on the
state (rule R105, step 5). -/

namespace Sys2Proof

/-- The space codes of rule R93: 0 is `ARR`, 1 is `SRC`, the others are reserved. -/
abbrev goodSpace (space : BitVec 4) : Bool := decide (space.toNat ≤ 1)

/-- A well-formed bit-range descriptor (rule R131): `start < end` and width at most 16. -/
abbrev goodRange (start stop : Half) : Bool :=
  decide (start.toNat < stop.toNat ∧ stop.toNat - start.toNat + 1 ≤ Config.maxWidth)

/-- The operand values the encoding allows. -/
def Instr.wellFormed : Instr → Bool
  | .mrd space _ => goodSpace space
  | .mwr space _ _ => goodSpace space
  | .fstat => true
  | .brd start stop => goodRange start stop
  | .bwr start stop _ => goodRange start stop
  | .bget _ => true
  | .bput _ _ => true
  | .cinit _ _ _ => true
  | .cfin _ => true
  | .cnext _ => true
  | .ccopy _ _ => true
  | .qappend _ _ => true
  | .qpop => true
  | .qread => true
  | .qpeek _ => true
  | .qreadf => true
  | .qpeekf _ => true
  | .qsetf _ => true
  | .qreset => true
  | .qstat => true

end Sys2Proof
end

