-- ==== Sys2Proof/Decode.lean ====
section
/-! DEFINITION. The command word: its fields (rules R91 to R97), the opcode map (rule R98), the decoder,
total and rejecting by name (rules R105 to R107), the byte order of a serialised word (rule R90), and
the encoder, written from the same tables. -/

namespace Sys2Proof

/-- The `width` bits of a word from bit `lo` up, word numbering (rule R10 (a)). -/
def fieldOf (lo width : Nat) (w : Cmd) : BitVec width := w.extractLsb' lo width

/-- A field's value put at bit `lo` of an otherwise zero word. -/
def place {width : Nat} (lo : Nat) (v : BitVec width) : Cmd := v.setWidth 64 <<< lo

/-- The mask and match of a row of the opcode map (rule R98). -/
structure RowBits where
  mask : Cmd
  pattern : Cmd
  deriving DecidableEq, Repr

/-- A row of the opcode map: its bits, and the command its operand fields make. -/
structure Row where
  bits : RowBits
  operands : Cmd → Instr

/-- A word selects a row iff `(w & mask) = match` (rule R98). -/
def RowBits.selects (r : RowBits) (w : Cmd) : Bool := w &&& r.mask == r.pattern

/-- Rule R98's mask and match of each command's row. -/
def Instr.rowBits : Instr → RowBits
  | .mrd _ _ => ⟨0xFF0F0000FFFFFFFF#64, 0x0100000000000000#64⟩
  | .mwr _ _ _ => ⟨0xFF0F000000FFFFFF#64, 0x0200000000000000#64⟩
  | .fstat => ⟨0xFFFFFFFFFFFFFFFF#64, 0x0300000000000000#64⟩
  | .brd _ _ => ⟨0xFF00000000FFFFFF#64, 0x1000000000000000#64⟩
  | .bwr _ _ _ => ⟨0xFF000000000000FF#64, 0x1100000000000000#64⟩
  | .bget _ => ⟨0xFF0000FFFFFFFFFF#64, 0x1200000000000000#64⟩
  | .bput _ _ => ⟨0xFF0000FFFFFFFEFF#64, 0x1300000000000000#64⟩
  | .cinit _ _ _ => ⟨0xFF0F00000000FFFF#64, 0x2000000000000000#64⟩
  | .cfin _ => ⟨0xFF0FFFFFFFFFFFFF#64, 0x2100000000000000#64⟩
  | .cnext _ => ⟨0xFF0FFFFFFFFFFFFF#64, 0x2200000000000000#64⟩
  | .ccopy _ _ => ⟨0xFF00FFFFFFFFFFFF#64, 0x2300000000000000#64⟩
  | .qappend _ _ => ⟨0xFF0000000000FFFF#64, 0x3000000000000000#64⟩
  | .qpop => ⟨0xFFFFFFFFFFFFFFFF#64, 0x3100000000000000#64⟩
  | .qread => ⟨0xFFFFFFFFFFFFFFFF#64, 0x3200000000000000#64⟩
  | .qpeek _ => ⟨0xFFFFFFFFFFFF0000#64, 0x3300000000000000#64⟩
  | .qreadf => ⟨0xFFFFFFFFFFFFFFFF#64, 0x3400000000000000#64⟩
  | .qpeekf _ => ⟨0xFFFFFFFFFFFF0000#64, 0x3500000000000000#64⟩
  | .qsetf _ => ⟨0xFFFFFFFFFF00FFFF#64, 0x3600000000000000#64⟩
  | .qreset => ⟨0xFFFFFFFFFFFFFFFF#64, 0x3700000000000000#64⟩
  | .qstat => ⟨0xFFFFFFFFFFFFFFFF#64, 0x3800000000000000#64⟩

/-- The command a word's operand fields make, for each row in the order of rule R98 (formats M, B, C and Q:
rules R93 to R96). -/
def operandReaders : List (Cmd → Instr) := [
  fun w => .mrd (fieldOf 52 4 w) (fieldOf 32 16 w),
  fun w => .mwr (fieldOf 52 4 w) (fieldOf 32 16 w) (fieldOf 24 8 w),
  fun _ => .fstat,
  fun w => .brd (fieldOf 40 16 w) (fieldOf 24 16 w),
  fun w => .bwr (fieldOf 40 16 w) (fieldOf 24 16 w) (fieldOf 8 16 w),
  fun w => .bget (fieldOf 40 16 w),
  fun w => .bput (fieldOf 40 16 w) (fieldOf 8 1 w),
  fun w => .cinit (fieldOf 52 4 w) (fieldOf 32 16 w) (fieldOf 16 16 w),
  fun w => .cfin (fieldOf 52 4 w),
  fun w => .cnext (fieldOf 52 4 w),
  fun w => .ccopy (fieldOf 52 4 w) (fieldOf 48 4 w),
  fun w => .qappend (fieldOf 24 32 w) (fieldOf 16 8 w),
  fun _ => .qpop,
  fun _ => .qread,
  fun w => .qpeek (fieldOf 0 16 w),
  fun _ => .qreadf,
  fun w => .qpeekf (fieldOf 0 16 w),
  fun w => .qsetf (fieldOf 16 8 w),
  fun _ => .qreset,
  fun _ => .qstat]

/-- The opcode map of rule R98. -/
def opcodeMap : List Row := operandReaders.map fun f => ⟨(f 0#64).rowBits, f⟩

/-- Why a word matches no row (rules R106 and R107). -/
inductive DecodeError where
  /-- Unit codes 4 to 15. -/
  | reservedUnit
  /-- A function code the unit does not define. -/
  | reservedFunction
  /-- A defined unit and function with a non-zero must-be-zero bit. -/
  | mustBeZero
  /-- A serialised command that is not 8 bytes long (rule R90: there is one length). -/
  | length
  deriving DecidableEq, Repr

/-- The unit and function codes rule R91 defines. -/
def definedFunction (unit fn : BitVec 4) : Bool :=
  match unit.toNat with
  | 0 => decide (1 ≤ fn.toNat ∧ fn.toNat ≤ 3)
  | 1 => decide (fn.toNat ≤ 3)
  | 2 => decide (fn.toNat ≤ 3)
  | 3 => decide (fn.toNat ≤ 8)
  | _ => false

/-- The name of the reason a word that matches no row is rejected for. -/
def rejectionOf (w : Cmd) : DecodeError :=
  if 4 ≤ (fieldOf 60 4 w).toNat then .reservedUnit
  else if definedFunction (fieldOf 60 4 w) (fieldOf 56 4 w) then .mustBeZero
  else .reservedFunction

/-- The decoder: the command of the row a word selects, or a rejection by name (rules R98 and R105). -/
def decode (w : Cmd) : Except DecodeError Instr :=
  match opcodeMap.find? fun r => r.bits.selects w with
  | some r => .ok (r.operands w)
  | none => .error (rejectionOf w)

/-- The encoder: each row's match with its operand fields put in (rules R93 to R98). -/
def encode (i : Instr) : Cmd :=
  i.rowBits.pattern |||
    match i with
    | .mrd space addr => place 52 space ||| place 32 addr
    | .mwr space addr data => place 52 space ||| place 32 addr ||| place 24 data
    | .fstat => 0#64
    | .brd start stop => place 40 start ||| place 24 stop
    | .bwr start stop value => place 40 start ||| place 24 stop ||| place 8 value
    | .bget offset => place 40 offset
    | .bput offset bit => place 40 offset ||| place 8 bit
    | .cinit ctx base len => place 52 ctx ||| place 32 base ||| place 16 len
    | .cfin ctx => place 52 ctx
    | .cnext ctx => place 52 ctx
    | .ccopy ctx ctx2 => place 52 ctx ||| place 48 ctx2
    | .qappend handle flags => place 24 handle ||| place 16 flags
    | .qpop => 0#64
    | .qread => 0#64
    | .qpeek index => place 0 index
    | .qreadf => 0#64
    | .qpeekf index => place 0 index
    | .qsetf flags => place 16 flags
    | .qreset => 0#64
    | .qstat => 0#64

/-- The byte order of a command on a byte stream: `cmd[63:56]` first (rule R90). -/
def bytesOfWord (w : Cmd) : List Byte :=
  [fieldOf 56 8 w, fieldOf 48 8 w, fieldOf 40 8 w, fieldOf 32 8 w,
    fieldOf 24 8 w, fieldOf 16 8 w, fieldOf 8 8 w, fieldOf 0 8 w]

/-- The word eight bytes of a byte stream carry (rule R90); any other number of bytes is no command. -/
def wordOfBytes : List Byte → Except DecodeError Cmd
  | [b7, b6, b5, b4, b3, b2, b1, b0] =>
    .ok (place 56 b7 ||| place 48 b6 ||| place 40 b5 ||| place 32 b4 |||
      place 24 b3 ||| place 16 b2 ||| place 8 b1 ||| place 0 b0)
  | _ => .error .length

/-- The decoder on a serialised command. -/
def decodeBytes (bs : List Byte) : Except DecodeError Instr :=
  match wordOfBytes bs with
  | .ok w => decode w
  | .error e => .error e

/-- The command word whose low `nbits` bits are those of `w` and whose other bits are zero. -/
def tableWord (nbits w : Nat) : Cmd := BitVec.ofNat 64 (w % 2 ^ nbits)

/-- The command the decoder reads from a word numbered as the opcode table numbers it (bit 0 least
significant). A command is one parallel 64-bit word, with no byte order of its own (rule R90). -/
def decodeTableWord (nbits w : Nat) : Option Instr := (decode (tableWord nbits w)).toOption

end Sys2Proof
end

