-- ==== Sys2Proof/Machine/State.lean ====
section
/-! DEFINITION. The state of the block (rule R20), the response it answers with (rules R100 and R101), what
the host can present (rule R9), and the state after hardware reset (rule R55). -/

namespace Sys2Proof.Machine

open Sys2Proof.Config

/-- The fault codes of rule R261; codes 7 to 15 are reserved and never returned. -/
inductive ErrCode where
  | none
  | illegal
  | desc
  | range
  | finished
  | ctx
  | halted
  deriving DecidableEq, Repr

/-- A reference event (rule R101). -/
inductive Event where
  /-- The queue has become one more holder of the buffer. -/
  | hold (h : Handle)
  /-- The queue has ceased to be one. -/
  | release (h : Handle)
  deriving DecidableEq, Repr

/-- A response (rule R100). `events` is in the order the block produced them. -/
structure Response where
  ok : Bool
  err : ErrCode
  data : Word
  events : List Event
  deriving DecidableEq, Repr

/-- What the host can do to the block (rule R9): present a command word, or apply hardware reset, between
two commands (`none`) or in the middle of a command, which the reset abandons (rule R290). -/
inductive HostInput where
  | command (w : Cmd)
  | reset (inProgress : Option Cmd)
  deriving DecidableEq, Repr

/-- One encoder context (rule R22). Offsets are relative to `base`. -/
structure Context where
  valid : Bool
  base : Half
  len : Half
  /-- readCursor. -/
  rc : Half
  /-- blockRemaining. -/
  br : Byte
  /-- blockLiteralCursor. -/
  lc : Half
  /-- consumedZero flag. -/
  cz : Bool
  /-- finished flag. -/
  fin : Bool
  deriving DecidableEq, Repr

/-- A byte memory: the bytes written since hardware reset, by address, addresses strictly rising. An address
that is not listed has no value of its own here (rule R52; log entry 2): a command that reads it gets the free
value of `Config`. -/
abbrev Memory := List Host.Cell

/-- The state of the block: the state of rule R20, then what the model adds to it: the parameters (fixed), what the
host will present, what the block has answered, and the two counters that index free values. -/
structure State where
  /-- The parameters of rule R4; no step changes them. -/
  params : Params
  /-- `ARR` (rule R61). -/
  arr : Memory
  /-- `SRC` (rule R62). -/
  src : Memory
  /-- `CTX[0 .. N_CTX-1]` (rule R21). -/
  ctx : List Context
  /-- `QH[0 .. C-1]` (rule R41). -/
  qh : List Handle
  /-- `QF[0 .. C-1]` (rule R41). -/
  qf : List Byte
  /-- `RI`, the queue's readIndex (rule R40). -/
  ri : Half
  /-- `UC`, the queue's usedCount (rule R40). -/
  uc : Half
  /-- `FAULT` (rule R46). -/
  faultReg : Byte
  /-- What the host presents from here on, in order (rules R8 and R9); not state of the block. -/
  inputs : List HostInput
  /-- The responses given since hardware reset, newest first (rule R100); not state of the block. -/
  responses : List Response
  /-- How many hardware resets there have been: the index of the unspecified memory content (log entry 2). -/
  epoch : Nat
  /-- How many `E_FINISHED` responses there have been: the index of their free `data` (log entry 3). -/
  draws : Nat
  deriving DecidableEq, Repr

/-- The faults that stop the MODEL: none. Every fault of the block is a response (rules R261 and R262), the
next state of a step; nothing in the spec leaves the block without one. -/
inductive Fault
  deriving DecidableEq, Repr

/-- Refusals of the model. -/
inductive Refusal where
  /-- An instruction with no meaning yet. No arm of `exec` raises it: every command has its meaning. Safe. -/
  | notModelled (mnemonic : String)
  deriving DecidableEq, Repr

/-- A context after hardware reset: it holds no encoder (rule R25). The spec leaves the seven other fields
unspecified and unreadable; the model stores zeros (DESIGN CHOICE, log entry 5). -/
def Context.empty : Context := ⟨false, 0#16, 0#16, 0#16, 0#8, 0#16, false, false⟩

/-- The state of rule R55 for a machine with parameters `p`. -/
def State.resetWith (p : Params) : State where
  params := p
  arr := []
  src := []
  ctx := List.replicate p.nCtx Context.empty
  qh := List.replicate p.c emptyHandle
  qf := List.replicate p.c 0#8
  ri := 0#16
  uc := 0#16
  faultReg := 0#8
  inputs := []
  responses := []
  epoch := 0
  draws := 0

/-- The machine right after reset (rule R55): nothing presented yet, nothing answered. -/
def State.reset : State := State.resetWith defaultParams

end Sys2Proof.Machine
end

