-- ==== Sys2Proof/Machine/Flags.lean ====
section
/-! DEFINITION. The status bits: the `FAULT` register (rule R46), the flags of a context (rules R30 and R165),
and the fill flags of the queue (rule R226). -/

namespace Sys2Proof.Machine

/-- The number of a fault code (rule R261). -/
def ErrCode.code : ErrCode → BitVec 4
  | .none => 0#4
  | .illegal => 1#4
  | .desc => 2#4
  | .range => 3#4
  | .finished => 4#4
  | .ctx => 5#4
  | .halted => 6#4

/-- The bits of `FAULT` a fault sets (rule R262): bit `code` for codes 1 to 5, bit 0 too for `E_DESC`, and
nothing for `E_HALTED`. -/
def ErrCode.faultBits : ErrCode → Byte
  | .none => 0#8
  | .illegal => 0x02#8
  | .desc => 0x05#8
  | .range => 0x08#8
  | .finished => 0x10#8
  | .ctx => 0x20#8
  | .halted => 0#8

/-- `FAULT` after a fault: bits are set and none is cleared (rule R46). -/
def recordFault (e : ErrCode) (fault : Byte) : Byte := fault ||| e.faultBits

/-- `FAULT.HALT` (rule R46). -/
def State.halted (s : State) : Bool := s.faultReg.getLsbD 0

/-- The termination rule (rule R165), run at the end of every CNEXT: `fin` is set when the block's literals are
exhausted, the whole view has been scanned and the last Scan consumed no zero. -/
def terminate (c : Context) : Context :=
  if c.br = 0#8 ∧ c.rc = c.len ∧ c.cz = false then { c with fin := true } else c

/-- `UC = 0`. -/
def State.queueEmpty (s : State) : Bool := s.uc == 0#16

/-- `UC = C`. -/
def State.queueFull (s : State) : Bool := s.uc.toNat == s.params.c

/-- The `data` of QSTAT: `(full << 17) | (empty << 16) | UC` (rule R226). -/
def State.fillWord (s : State) : Word :=
  (bitWord s.queueFull <<< 17) ||| (bitWord s.queueEmpty <<< 16) ||| s.uc.setWidth 32

end Sys2Proof.Machine
end

