-- ==== Sys2Proof/Machine/Ops.lean ====
section
/-! DEFINITION. The named operations: a byte memory, the accessors of the state, answering a command, raising a
fault (the block's whole trap entry, rules R262 and R273; there is no return, rule R274), running a command's
checks in order (rule R270), taking the host's next input, and hardware reset. -/

namespace Sys2Proof.Machine

open Sys2Proof.Config

/-- What one step or one meaning answers. -/
abbrev Result := Host.Outcome State Fault Refusal

/-! ### A byte memory -/

/-- The byte written at an address, if one was. -/
def Memory.get? : Memory → Nat → Option Byte
  | [], _ => none
  | (a, b) :: m, k => if a = k then some b else Memory.get? m k

/-- The memory with byte `v` at address `k`, in canonical form. -/
def Memory.put : Memory → Nat → Byte → Memory
  | [], k, v => [(k, v)]
  | (a, b) :: m, k, v =>
    if k < a then (k, v) :: (a, b) :: m
    else if k = a then (k, v) :: m
    else (a, b) :: Memory.put m k v

/-- Every listed address is at least `lo`, below `size`, and above the ones before it. -/
def Memory.wfFrom (lo size : Nat) : Memory → Bool
  | [] => true
  | (a, _) :: m => decide (lo ≤ a) && decide (a < size) && Memory.wfFrom (a + 1) size m

/-- The canonical form of a memory of `size` bytes: addresses strictly rising, all below `size`. An unlisted
address has no value, so no entry equals what an unlisted address holds. -/
def Memory.wf (size : Nat) (m : Memory) : Bool := Memory.wfFrom 0 size m

/-! ### Accessors -/

/-- `ARR[a]` as a command reads it: the byte last written, or the free value if none was (rule R52). -/
def State.arrByte (s : State) (a : Nat) : Byte := (s.arr.get? a).getD (arrAfterReset s.epoch a)

/-- `SRC[a]` as a command reads it. -/
def State.srcByte (s : State) (a : Nat) : Byte := (s.src.get? a).getD (srcAfterReset s.epoch a)

/-- `ARR[a] <- v`. -/
def State.writeArr (s : State) (a : Nat) (v : Byte) : State := { s with arr := s.arr.put a v }

/-- `SRC[a] <- v`. -/
def State.writeSrc (s : State) (a : Nat) (v : Byte) : State := { s with src := s.src.put a v }

/-- `CTX[k]`; an index that names no context gives one that holds no encoder. -/
def State.getCtx (s : State) (k : BitVec 4) : Context := s.ctx.getD k.toNat Context.empty

/-- `CTX[k] <- c`, all fields. -/
def State.setCtx (s : State) (k : BitVec 4) (c : Context) : State :=
  { s with ctx := s.ctx.set k.toNat c }

/-- The slot at relative offset `i` from the head, `(RI + i) mod C`, on the exact sum (rules R42 and R231). -/
def State.slot (s : State) (i : Nat) : Nat := (s.ri.toNat + i) % s.params.c

/-- `QH[slot]`. -/
def State.handleIn (s : State) (slot : Nat) : Handle := s.qh.getD slot emptyHandle

/-- `QF[slot]`. -/
def State.flagIn (s : State) (slot : Nat) : Byte := s.qf.getD slot 0#8

/-! ### Answering a command -/

/-- `respond(ok, data)` with the events emitted (rules R12 and R100): the command ends with `err = 0`. -/
def State.respondWith (s : State) (ok : Bool) (data : Word) (events : List Event) : State :=
  { s with responses := ⟨ok, .none, data, events⟩ :: s.responses }

/-- `respond(ok, data)` of a command that emits no event. -/
def State.respond (s : State) (ok : Bool) (data : Word) : State := s.respondWith ok data []

/-- The `data` of a fault's response: 0, but for `E_FINISHED`, whose `data` is unspecified (rule R262). -/
def State.faultData (s : State) (e : ErrCode) : Word :=
  if e = .finished then finishedData s.draws else 0#32

/-- `raise E(e)` (rule R262), the one place a fault is taken: `FAULT` records it, the response reports it with
`ok = 0` and no event, and nothing else of the block changes. -/
def State.raise (s : State) (e : ErrCode) : State :=
  { s with
    faultReg := recordFault e s.faultReg
    responses := ⟨false, e, s.faultData e, []⟩ :: s.responses
    draws := if e = .finished then s.draws + 1 else s.draws }

/-- The first fault of a list of conditions in priority order (rule R270). -/
def firstFault : List (Bool × ErrCode) → Option ErrCode
  | [] => none
  | (holds, e) :: rest => if holds then some e else firstFault rest

/-- A command: its checks in the order given, each before any write (rule R262 (1)); the first that holds is
raised, and if none holds the command has its effect. -/
def State.perform (s : State) (checks : List (Bool × ErrCode)) (effect : State) : Result :=
  match firstFault checks with
  | some e => .next (s.raise e)
  | none => .next effect

/-- A word that selects no row (rule R105, checks 1 and 2). -/
def State.rejectWord (s : State) : Result := s.perform [(s.halted, .halted), (true, .illegal)] s

/-! ### The host -/

/-- The host's next input and the state that has taken it, or nothing when the host presents nothing. -/
def State.takeInput (s : State) : Option (HostInput × State) :=
  match s.inputs with
  | [] => none
  | i :: rest => some (i, { s with inputs := rest })

/-- Hardware reset (rule R290): the state of rule R55, whatever the state was, with no response and no event
(rule R291). What the host goes on to present is the host's, the memories have new unspecified content, and
the count of free draws goes on. -/
def State.hardwareReset (s : State) : State :=
  { State.resetWith s.params with inputs := s.inputs, epoch := s.epoch + 1, draws := s.draws }

/-- The packed form of a response's first three parts: `resp[36] = ok`, `resp[35:32] = err`,
`resp[31:0] = data` (rule R100). -/
def Response.packed (r : Response) : BitVec 37 :=
  ((BitVec.ofBool r.ok).setWidth 37 <<< 36) ||| (r.err.code.setWidth 37 <<< 32) ||| r.data.setWidth 37

end Sys2Proof.Machine
end

