-- ==== Sys2Proof/Machine/Operands.lean ====
section
/-! DEFINITION. The operand forms (rule R71): a space and a byte address, a bit index, a bit-range descriptor,
a context index, a queue offset; each with the check the spec gives it, the value it reads and the write it
makes. -/

namespace Sys2Proof.Machine

open Sys2Proof.Config

/-! ### A byte of `ARR` or `SRC` (rules R93 and R108) -/

/-- `space` 2 to 15 is reserved (rule R108). -/
def reservedSpace (space : BitVec 4) : Bool := !goodSpace space

/-- The byte address is outside the space (rule R73). -/
def State.outsideSpace (s : State) (space : BitVec 4) (addr : Half) : Bool :=
  decide ((if space = 0#4 then s.params.nA else s.params.nS) ≤ addr.toNat)

/-- The byte at an address of a space. -/
def State.spaceByte (s : State) (space : BitVec 4) (addr : Half) : Byte :=
  if space = 0#4 then s.arrByte addr.toNat else s.srcByte addr.toNat

/-- The state with a byte stored at an address of a space. -/
def State.writeSpace (s : State) (space : BitVec 4) (addr : Half) (v : Byte) : State :=
  if space = 0#4 then s.writeArr addr.toNat v else s.writeSrc addr.toNat v

/-! ### A bit of `ARR` (rules R10 and R137) -/

/-- The byte a global bit index lies in. -/
def byteIndex (g : Half) : Nat := g.toNat / 8

/-- The position of a global bit index inside its byte, counted from the most significant bit. -/
def bitInByte (g : Half) : Nat := g.toNat % 8

/-- The byte of a global bit index is outside `ARR` (rule R73). -/
def State.outsideArr (s : State) (g : Half) : Bool := decide (s.params.nA ≤ byteIndex g)

/-- The one-bit mask at position `7 - bitInByte` (rule R137). -/
def bitMask (g : Half) : Byte := 1#8 <<< (7 - bitInByte g)

/-- The bit at a global bit index: `(A[b] & m) ≠ 0` (rule R137). -/
def State.readBit (s : State) (g : Half) : Bool := s.arrByte (byteIndex g) &&& bitMask g != 0#8

/-- One bit written at a global bit index, the other seven bits of its byte kept (rules R137 and R146). -/
def State.writeBit (s : State) (g : Half) (bit : BitVec 1) : State :=
  s.writeArr (byteIndex g)
    ((s.arrByte (byteIndex g) &&& ~~~(bitMask g)) ||| (if bit = 1#1 then bitMask g else 0#8))

/-! ### A bit-range of `ARR` (rules R131 to R136) -/

/-- The descriptor is malformed (rule R109). -/
def malformedRange (start stop : Half) : Bool := !goodRange start stop

/-- `w = end - start + 1` (rule R131). -/
def rangeWidth (start stop : Half) : Nat := stop.toNat - start.toNat + 1

/-- `n = l - f + 1`, the number of bytes of the span (rule R132). -/
def rangeSpan (start stop : Half) : Nat := byteIndex stop - byteIndex start + 1

/-- `mask(w) = (1 << w) - 1` (rule R11), at a width that holds it. -/
def lowMask (bits w : Nat) : BitVec bits := (1#bits <<< w) - 1#bits

/-- `MemRead(ARR, a, n)` for `n ≤ 4`: big-endian, byte `a` the most significant (rule R64). -/
def State.arrLoad (s : State) (a : Nat) : (n : Nat) → Word
  | 0 => 0#32
  | n + 1 => (s.arrLoad a n <<< 8) ||| (s.arrByte (a + n)).setWidth 32

/-- `MemWrite(ARR, a, n, v)` for `n ≤ 4`: big-endian (rule R64). -/
def State.arrStore (s : State) (a : Nat) : (n : Nat) → Word → State
  | 0, _ => s
  | n + 1, v => (s.arrStore a n (v >>> 8)).writeArr (a + n) (v.setWidth 8)

/-- The read algorithm of rule R134: load the span, shift, mask. The load of three bytes is padded with a
constant zero byte at the least significant end, which is not read from `ARR` (rule R68). -/
def State.readRange (s : State) (start stop : Half) : Word :=
  let f := byteIndex start
  let e := bitInByte stop
  let w := rangeWidth start stop
  match rangeSpan start stop with
  | 1 => (s.arrLoad f 1 >>> (7 - e)) &&& lowMask 32 w
  | 2 => (s.arrLoad f 2 >>> (7 - e)) &&& lowMask 32 w
  | _ => ((s.arrLoad f 3 <<< 8) >>> (15 - e)) &&& lowMask 32 w

/-- The write algorithm of rule R136. One or two bytes: load, clear the field, put the value in, store. Three
bytes: the value in three pieces; the old middle byte is not read (rule R68). -/
def State.writeRange (s : State) (start stop value : Half) : State :=
  let f := byteIndex start
  let e := bitInByte stop
  let w := rangeWidth start stop
  let v := value &&& lowMask 16 w
  match rangeSpan start stop with
  | 1 =>
    s.writeArr f ((s.arrByte f &&& ~~~(lowMask 8 w <<< (7 - e))) ||| (v.setWidth 8 <<< (7 - e)))
  | 2 =>
    s.arrStore f 2 ((s.arrLoad f 2 &&& ~~~(lowMask 32 w <<< (7 - e))) ||| (v.setWidth 32 <<< (7 - e)))
  | _ =>
    let k1 := 8 - bitInByte start
    let k3 := e + 1
    let first := (s.arrByte f &&& ~~~(lowMask 8 k1)) ||| (v >>> (w - k1)).setWidth 8
    let middle := (v >>> k3).setWidth 8
    let third :=
      (s.arrByte (f + 2) &&& (0xFF#8 >>> k3)) ||| ((v &&& lowMask 16 k3).setWidth 8 <<< (8 - k3))
    ((s.writeArr f first).writeArr (f + 1) middle).writeArr (f + 2) third

/-! ### A context (rules R21 and R266) -/

/-- The index names no context. -/
def State.noContext (s : State) (k : BitVec 4) : Bool := decide (s.params.nCtx ≤ k.toNat)

/-- The context holds no encoder. -/
def State.noEncoder (s : State) (k : BitVec 4) : Bool := !(s.getCtx k).valid

/-- The view would not fit `SRC` (rule R73). -/
def State.outsideSrc (s : State) (base len : Half) : Bool :=
  decide (s.params.nS < base.toNat + len.toNat)

/-! ### An element of the queue (rules R42, R216 and R220) -/

/-- The offset names no slot: `i ≥ C`. -/
def State.beyondCapacity (s : State) (i : Nat) : Bool := decide (s.params.c ≤ i)

/-- The offset names an element: `i < UC`. -/
def State.isElement (s : State) (i : Nat) : Bool := decide (i < s.uc.toNat)

/-- The flag byte a read of offset `i`, in `slot`, answers: the element's flag byte, or a free value where
the offset names no element (rules R218 and R220, U6). -/
def State.flagAt (s : State) (i slot : Nat) : Byte :=
  if s.isElement i then s.flagIn slot else staleFlag s.ri s.uc s.qf slot

end Sys2Proof.Machine
end

