-- ==== Sys2Proof/Machine/BitRange.lean ====
section
/-! DEFINITION. The bit-range codec BRC (rules R140 to R146). -/

namespace Sys2Proof.Machine

/-- BRD, read a bit-range (rule R140). -/
def execBrd (start stop : Half) (s : State) : Result :=
  s.perform
    [(s.halted, .halted), (malformedRange start stop, .desc), (s.outsideArr stop, .range)]
    (s.respond true (s.readRange start stop))

/-- BWR, write a bit-range (rule R142). -/
def execBwr (start stop value : Half) (s : State) : Result :=
  s.perform
    [(s.halted, .halted), (malformedRange start stop, .desc), (s.outsideArr stop, .range)]
    ((s.writeRange start stop value).respond true 0#32)

/-- BGET, read one bit (rule R144). -/
def execBget (offset : Half) (s : State) : Result :=
  s.perform [(s.halted, .halted), (s.outsideArr offset, .range)]
    (s.respond true (bitWord (s.readBit offset)))

/-- BPUT, write one bit (rule R146). -/
def execBput (offset : Half) (bit : BitVec 1) (s : State) : Result :=
  s.perform [(s.halted, .halted), (s.outsideArr offset, .range)]
    ((s.writeBit offset bit).respond true 0#32)

end Sys2Proof.Machine
end

