-- ==== Sys2Proof/Machine/Encoder.lean ====
section
/-! DEFINITION. The COBS streaming encoder CSE (rules R160 to R178). -/

namespace Sys2Proof.Machine

open Sys2Proof.Config

/-- How many bytes of `SRC` from `addr` up are non-zero before the first zero, counting at most `limit`. -/
def State.nonzeroRun (s : State) (addr : Nat) : (limit : Nat) → Nat
  | 0 => 0
  | limit + 1 => if s.srcByte addr = 0#8 then 0 else s.nonzeroRun (addr + 1) limit + 1

/-- The run of a Scan (rule R162): from `readCursor`, up to the cap, a zero byte or the end of the view. -/
def State.scanRun (s : State) (c : Context) : Nat :=
  s.nonzeroRun (c.base.toNat + c.rc.toNat) (min scanCap (c.len.toNat - c.rc.toNat))

/-- The outcome of a Scan that counted `run` (rules R162 and R164): the block's prefix, and the context. -/
def scanOutcome (c : Context) (run : Nat) : Byte × Context :=
  let c := { c with lc := c.rc, br := BitVec.ofNat 8 run }
  if run < scanCap ∧ c.rc.toNat + run < c.len.toNat then
    (BitVec.ofNat 8 (run + 1), { c with rc := BitVec.ofNat 16 (c.rc.toNat + run + 1), cz := true })
  else if run = scanCap then
    (255#8, { c with rc := BitVec.ofNat 16 (c.rc.toNat + scanCap), cz := false })
  else
    (BitVec.ofNat 8 (run + 1), { c with rc := c.len, cz := false })

/-- Scan (rule R162). -/
def State.scan (s : State) (c : Context) : Byte × Context := scanOutcome c (s.scanRun c)

/-- Emit (rule R163): the literal is read from `SRC` now. -/
def State.emit (s : State) (c : Context) : Byte × Context :=
  (s.srcByte (c.base.toNat + c.lc.toNat), { c with lc := c.lc + 1#16, br := c.br - 1#8 })

/-- `getNextByte()` (rules R161 and R174): one Scan or one Emit, then the termination rule. -/
def State.nextByte (s : State) (c : Context) : Byte × Context :=
  let out := if c.br = 0#8 then s.scan c else s.emit c
  (out.1, terminate out.2)

/-- The context CINIT writes (rule R170). -/
def newEncoder (base len : Half) : Context := ⟨true, base, len, 0#16, 0#8, 0#16, false, false⟩

/-- CINIT, construct an encoder over a source view (rule R170). -/
def execCinit (ctx : BitVec 4) (base len : Half) (s : State) : Result :=
  s.perform [(s.halted, .halted), (s.noContext ctx, .ctx), (s.outsideSrc base len, .range)]
    ((s.setCtx ctx (newEncoder base len)).respond true 0#32)

/-- CFIN, `isFinished()` (rule R172). -/
def execCfin (ctx : BitVec 4) (s : State) : Result :=
  s.perform [(s.halted, .halted), (s.noContext ctx, .ctx), (s.noEncoder ctx, .ctx)]
    (s.respond true (bitWord (s.getCtx ctx).fin))

/-- CNEXT, `getNextByte()` (rule R174). -/
def execCnext (ctx : BitVec 4) (s : State) : Result :=
  s.perform
    [(s.halted, .halted), (s.noContext ctx, .ctx), (s.noEncoder ctx, .ctx),
      ((s.getCtx ctx).fin, .finished)]
    ((s.setCtx ctx (s.nextByte (s.getCtx ctx)).2).respond true
      ((s.nextByte (s.getCtx ctx)).1.setWidth 32))

/-- CCOPY, copy an encoder (rule R176); the destination index is tested before the source (rule R270). -/
def execCcopy (ctx ctx2 : BitVec 4) (s : State) : Result :=
  s.perform
    [(s.halted, .halted), (s.noContext ctx, .ctx), (s.noContext ctx2, .ctx), (s.noEncoder ctx2, .ctx)]
    ((s.setCtx ctx (s.getCtx ctx2)).respond true 0#32)

end Sys2Proof.Machine
end

