-- ==== Sys2Proof/Machine/Queue.lean ====
section
/-! DEFINITION. The buffer-handle queue BHQ (rules R200 to R231). -/

namespace Sys2Proof.Machine

open Sys2Proof.Config

/-- The event of storing a handle: `HOLD`, unless it is the empty handle (rules R203 and R211). -/
def holdEvents (h : Handle) : List Event := if h = emptyHandle then [] else [.hold h]

/-- The event of clearing a slot: `RELEASE`, unless it holds the empty handle (rules R203 and R211). -/
def releaseEvents (h : Handle) : List Event := if h = emptyHandle then [] else [.release h]

/-- An element stored at the write position `(RI + UC) mod C` (rules R42 and R210). -/
def State.pushBack (s : State) (h : Handle) (flags : Byte) : State :=
  { s with
    qh := s.qh.set (s.slot s.uc.toNat) h
    qf := s.qf.set (s.slot s.uc.toNat) flags
    uc := s.uc + 1#16 }

/-- The head slot emptied and left behind; its flag byte stays (rules R212 and R213). -/
def State.popFront (s : State) : State :=
  { s with
    qh := s.qh.set s.ri.toNat emptyHandle
    ri := BitVec.ofNat 16 (s.slot 1)
    uc := s.uc - 1#16 }

/-- Every slot emptied, the cursors zeroed (rule R224). -/
def State.clearQueue (s : State) : State :=
  { s with
    qh := s.qh.map fun _ => emptyHandle
    qf := s.qf.map fun _ => 0#8
    ri := 0#16
    uc := 0#16 }

/-- QAPPEND, `append(handle, flags)` (rule R210). -/
def execQappend (handle : Handle) (flags : Byte) (s : State) : Result :=
  s.perform [(s.halted, .halted)]
    (if s.queueFull then s.respond false 0#32
      else (s.pushBack handle flags).respondWith true 0#32 (holdEvents handle))

/-- QPOP, `pop()` (rule R212). -/
def execQpop (s : State) : Result :=
  s.perform [(s.halted, .halted)]
    (if s.queueEmpty then s.respond false 0#32
      else s.popFront.respondWith true 0#32 (releaseEvents (s.handleIn s.ri.toNat)))

/-- QREAD, `read()` (rule R214). -/
def execQread (s : State) : Result :=
  s.perform [(s.halted, .halted)] (s.respond (s.isElement 0) (s.handleIn s.ri.toNat))

/-- QPEEK, `peek(i)` (rule R216). -/
def execQpeek (index : Half) (s : State) : Result :=
  s.perform [(s.halted, .halted)]
    (if s.beyondCapacity index.toNat then s.respond false emptyHandle
      else s.respond (s.isElement index.toNat) (s.handleIn (s.slot index.toNat)))

/-- QREADF, `readFlags()` (rule R218). -/
def execQreadf (s : State) : Result :=
  s.perform [(s.halted, .halted)] (s.respond (s.isElement 0) ((s.flagAt 0 s.ri.toNat).setWidth 32))

/-- QPEEKF, `peekFlags(i)` (rule R220). -/
def execQpeekf (index : Half) (s : State) : Result :=
  s.perform [(s.halted, .halted)]
    (if s.beyondCapacity index.toNat then s.respond false 0#32
      else s.respond (s.isElement index.toNat) ((s.flagAt index.toNat (s.slot index.toNat)).setWidth 32))

/-- QSETF, `setFlags(flags)`: the head slot's flag byte (rule R222). -/
def execQsetf (flags : Byte) (s : State) : Result :=
  s.perform [(s.halted, .halted)]
    (if s.queueEmpty then s.respond false 0#32
      else { s with qf := s.qf.set s.ri.toNat flags }.respond true 0#32)

/-- QRESET, `reset()` (rule R224): the releases in ascending physical slot number. -/
def execQreset (s : State) : Result :=
  s.perform [(s.halted, .halted)]
    (s.clearQueue.respondWith true 0#32 (s.qh.flatMap releaseEvents))

/-- QSTAT, report the fill state (rule R226). -/
def execQstat (s : State) : Result :=
  s.perform [(s.halted, .halted)] (s.respond true s.fillWord)

end Sys2Proof.Machine
end

