-- ==== Sys2Proof/Machine/System.lean ====
section
/-! DEFINITION. The SYS commands (rules R240 to R244). -/

namespace Sys2Proof.Machine

/-- MRD, read one byte of `ARR` or `SRC` (rule R240). -/
def execMrd (space : BitVec 4) (addr : Half) (s : State) : Result :=
  s.perform
    [(s.halted, .halted), (reservedSpace space, .illegal), (s.outsideSpace space addr, .range)]
    (s.respond true ((s.spaceByte space addr).setWidth 32))

/-- MWR, write one byte of `ARR` or `SRC` (rule R242). -/
def execMwr (space : BitVec 4) (addr : Half) (data : Byte) (s : State) : Result :=
  s.perform
    [(s.halted, .halted), (reservedSpace space, .illegal), (s.outsideSpace space addr, .range)]
    ((s.writeSpace space addr data).respond true 0#32)

/-- FSTAT, read the fault register; the one command that runs when halted (rule R244). -/
def execFstat (s : State) : Result :=
  s.perform [] (s.respond true (s.faultReg.setWidth 32))

end Sys2Proof.Machine
end

