-- ==== Sys2Proof/Machine/Dispatch.lean ====
section
/-! DEFINITION. The dispatch: one arm per command, each one direct call of its meaning. -/

namespace Sys2Proof.Machine

def exec (i : Instr) (s : State) : Host.Outcome State Fault Refusal :=
  match i with
  | .mrd space addr => Sys2Proof.Machine.execMrd space addr s
  | .mwr space addr data => Sys2Proof.Machine.execMwr space addr data s
  | .fstat => Sys2Proof.Machine.execFstat s
  | .brd start stop => Sys2Proof.Machine.execBrd start stop s
  | .bwr start stop value => Sys2Proof.Machine.execBwr start stop value s
  | .bget offset => Sys2Proof.Machine.execBget offset s
  | .bput offset bit => Sys2Proof.Machine.execBput offset bit s
  | .cinit ctx base len => Sys2Proof.Machine.execCinit ctx base len s
  | .cfin ctx => Sys2Proof.Machine.execCfin ctx s
  | .cnext ctx => Sys2Proof.Machine.execCnext ctx s
  | .ccopy ctx ctx2 => Sys2Proof.Machine.execCcopy ctx ctx2 s
  | .qappend handle flags => Sys2Proof.Machine.execQappend handle flags s
  | .qpop => Sys2Proof.Machine.execQpop s
  | .qread => Sys2Proof.Machine.execQread s
  | .qpeek index => Sys2Proof.Machine.execQpeek index s
  | .qreadf => Sys2Proof.Machine.execQreadf s
  | .qpeekf index => Sys2Proof.Machine.execQpeekf index s
  | .qsetf flags => Sys2Proof.Machine.execQsetf flags s
  | .qreset => Sys2Proof.Machine.execQreset s
  | .qstat => Sys2Proof.Machine.execQstat s

end Sys2Proof.Machine
end

