-- ==== Sys2Proof/Machine/Step.lean ====
section
/-! DEFINITION. One step: the block takes the host's next input and performs it whole (rule R8). -/

namespace Sys2Proof.Machine

/-- One step. With nothing presented the block waits (rules R55 and R272); hardware reset is rule R290; a command
word is decoded and run, or rejected (rule R105). -/
def step (s : State) : Host.Outcome State Fault Refusal :=
  match s.takeInput with
  | none => .next s
  | some (.reset _, t) => .next t.hardwareReset
  | some (.command w, t) =>
    match decode w with
    | .ok i => exec i t
    | .error _ => t.rejectWord

/-- The state in which the host presents, before anything else, the command word whose low `nbits` bits are
those of `w` and whose other bits are zero (log entry 6: the block fetches nothing). -/
def State.withFetchWord (s : State) (nbits w : Nat) : State :=
  { s with inputs := .command (tableWord nbits w) :: s.inputs }

end Sys2Proof.Machine
end

