-- ==== Sys2Proof/Machine/Assembler.lean ====
section
/-! DEFINITION. The assembly language of rules R112 and R113: a line of text, its mnemonic and operands, and the
commands it assembles to. The assembler refuses an operand that does not fit its field and a malformed bit-range. -/

namespace Sys2Proof.Machine

/-! ### Text -/

/-- The value of a digit, decimal or hexadecimal. -/
def digitValue (ch : Char) : Option Nat :=
  if '0' ≤ ch ∧ ch ≤ '9' then some (ch.toNat - '0'.toNat)
  else if 'a' ≤ ch ∧ ch ≤ 'f' then some (ch.toNat - 'a'.toNat + 10)
  else if 'A' ≤ ch ∧ ch ≤ 'F' then some (ch.toNat - 'A'.toNat + 10)
  else none

/-- The digits of a number in a radix, most significant first, after the value `acc` of those before. -/
def digitsValue (radix : Nat) : (acc : Nat) → List Char → Option Nat
  | acc, [] => some acc
  | acc, ch :: rest =>
    match digitValue ch with
    | some d => if d < radix then digitsValue radix (acc * radix + d) rest else none
    | none => none

/-- A decimal or `0x` hexadecimal number (rule R112); at least one digit. -/
def readNumber : List Char → Option Nat
  | '0' :: 'x' :: ch :: rest => digitsValue 16 0 (ch :: rest)
  | [] => none
  | ch :: rest => digitsValue 10 0 (ch :: rest)

/-- An operand: a number, or the name of a space (rule R112: `space` is `ARR` or `SRC`, or 0 or 1). -/
inductive Operand where
  | number (n : Nat)
  | arr
  | src
  deriving DecidableEq, Repr

/-- An operand's text. -/
def readOperand (t : List Char) : Option Operand :=
  if t = ['A', 'R', 'R'] then some .arr
  else if t = ['S', 'R', 'C'] then some .src
  else (readNumber t).map .number

/-- The text before a comment (rule R112: `;` starts one). -/
def uncommented (line : List Char) : List Char := line.takeWhile (· ≠ ';')

/-- The words of a line, parted by blanks and commas, in order; `word` is the one being read. -/
def wordsOf : (word : List Char) → List Char → List (List Char)
  | word, [] => if word = [] then [] else [word]
  | word, ch :: rest =>
    if ch = ' ' ∨ ch = '\t' ∨ ch = ',' then
      (if word = [] then wordsOf [] rest else word :: wordsOf [] rest)
    else wordsOf (word ++ [ch]) rest

/-! ### Assembling -/

/-- An operand's value in a field of `width` bits; one that does not fit is refused (rule R112). -/
def fit (width : Nat) : Operand → Option (BitVec width)
  | .number n => if n < 2 ^ width then some (BitVec.ofNat width n) else none
  | .arr => none
  | .src => none

/-- A `space` operand (rule R112). -/
def fitSpace : Operand → Option (BitVec 4)
  | .arr => some 0#4
  | .src => some 1#4
  | .number n => if n ≤ 1 then some (BitVec.ofNat 4 n) else none

/-- The command, unless its bit-range is malformed (rule R112). -/
def unlessMalformed (i : Instr) : Option (List Instr) := if i.wellFormed then some [i] else none

/-- The MWR commands of `MFILL`, from address `addr` up (rule R113). -/
def fillFrom (space : BitVec 4) : (addr : Nat) → List Operand → Option (List Instr)
  | _, [] => some []
  | addr, b :: rest => do
    let a ← fit 16 (.number addr)
    let v ← fit 8 b
    let more ← fillFrom space (addr + 1) rest
    some (.mwr space a v :: more)

/-- The commands a mnemonic and its operands assemble to: the commands of rule R112, and the pseudo-instructions of
rule R113 but `CENC`, which is a loop of the host's and no list of commands (`encodeLoop`). -/
def assemble : (mnemonic : String) → List Operand → Option (List Instr)
  | "MRD", [space, addr] => do some [.mrd (← fitSpace space) (← fit 16 addr)]
  | "MWR", [space, addr, data] => do some [.mwr (← fitSpace space) (← fit 16 addr) (← fit 8 data)]
  | "FSTAT", [] => some [.fstat]
  | "BRD", [start, stop] => do unlessMalformed (.brd (← fit 16 start) (← fit 16 stop))
  | "BWR", [start, stop, value] => do
    unlessMalformed (.bwr (← fit 16 start) (← fit 16 stop) (← fit 16 value))
  | "BGET", [offset] => do some [.bget (← fit 16 offset)]
  | "BPUT", [offset, bit] => do some [.bput (← fit 16 offset) (← fit 1 bit)]
  | "CINIT", [ctx, base, len] => do some [.cinit (← fit 4 ctx) (← fit 16 base) (← fit 16 len)]
  | "CFIN", [ctx] => do some [.cfin (← fit 4 ctx)]
  | "CNEXT", [ctx] => do some [.cnext (← fit 4 ctx)]
  | "CCOPY", [dst, orig] => do some [.ccopy (← fit 4 dst) (← fit 4 orig)]
  | "QAPPEND", [handle, flags] => do some [.qappend (← fit 32 handle) (← fit 8 flags)]
  | "QPOP", [] => some [.qpop]
  | "QREAD", [] => some [.qread]
  | "QPEEK", [index] => do some [.qpeek (← fit 16 index)]
  | "QREADF", [] => some [.qreadf]
  | "QPEEKF", [index] => do some [.qpeekf (← fit 16 index)]
  | "QSETF", [flags] => do some [.qsetf (← fit 8 flags)]
  | "QRESET", [] => some [.qreset]
  | "QSTAT", [] => some [.qstat]
  | "QAPPEND", [handle] => do some [.qappend (← fit 32 handle) 0#8]
  | "BSETB", [offset] => do some [.bput (← fit 16 offset) 1#1]
  | "BCLRB", [offset] => do some [.bput (← fit 16 offset) 0#1]
  | "MFILL", space :: .number addr :: b :: rest => do fillFrom (← fitSpace space) addr (b :: rest)
  | _, _ => none

/-- The commands a line of text assembles to; a blank or comment line gives none. -/
def assembleLine (line : List Char) : Option (List Instr) :=
  match wordsOf [] (uncommented line) with
  | [] => some []
  | mnemonic :: operands =>
    match operands.mapM readOperand with
    | some ops => assemble (String.ofList mnemonic) ops
    | none => none

end Sys2Proof.Machine
end

