-- ==== Sys2Proof/Machine/HostProgram.lean ====
section
/-! DEFINITION. What the host does with the block: a list of commands, the loop that collects an encoder's stream
(`CENC`, rule R113), and the reference decoder of the stream (rule R118). None of it is hardware. -/

namespace Sys2Proof.Machine

/-- The newest response. -/
def State.lastResponse (s : State) : Option Response := s.responses.head?

/-- The `data` of the newest response. -/
def State.lastData (s : State) : Word := (s.lastResponse.map (·.data)).getD 0#32

/-- The commands of a list, in order. -/
def runAll : List Instr → State → Result
  | [], s => .next s
  | i :: rest, s =>
    match exec i s with
    | .next t => runAll rest t
    | .fault r => .fault r
    | .refused r => .refused r

/-- The host's loop of rule R113, at most `fuel` times round: CFIN; stop if it answers 1; CNEXT; collect its byte.
It gives the bytes collected and the state it stops in. -/
def encodeLoop (ctx : BitVec 4) : (fuel : Nat) → State → List Byte × State
  | 0, s => ([], s)
  | fuel + 1, s =>
    match exec (.cfin ctx) s with
    | .next t =>
      if t.lastData.getLsbD 0 then ([], t)
      else
        match exec (.cnext ctx) t with
        | .next u =>
          let rest := encodeLoop ctx fuel u
          (u.lastData.setWidth 8 :: rest.1, rest.2)
        | .fault _ => ([], t)
        | .refused _ => ([], t)
    | .fault _ => ([], s)
    | .refused _ => ([], s)

/-- The reference decoder of rule R118, at most `fuel` blocks. -/
def cobsDecodeBlocks : (fuel : Nat) → List Byte → List Byte
  | 0, _ => []
  | _ + 1, [] => []
  | fuel + 1, p :: rest =>
    let literals := rest.take (p.toNat - 1)
    let others := rest.drop (p.toNat - 1)
    literals ++ (if p ≠ 255#8 ∧ others ≠ [] then [0#8] else []) ++ cobsDecodeBlocks fuel others

/-- The reference decoder of rule R118 on a whole frame. -/
def cobsDecode (frame : List Byte) : List Byte := cobsDecodeBlocks frame.length frame

end Sys2Proof.Machine
end

