-- ==== Sys2Proof/Safety.lean ====
section
/-! DEFINITION. The terms claims use: the values the spec defines over a state (rules R10, R42, R133, R62), the
invariants (rules R23, R40, R43, R46, R203), the faults a command's conditions call for (rules R261, R266, R73, R270),
and the host's duty about a source view (rule R301). -/

namespace Sys2Proof.Machine

open Sys2Proof.Config

/-! ### Values -/

/-- `gbit(ARR, g)`: global bit index `g` is bit `7 - (g mod 8)` of byte `g div 8` (rule R10 (b)). -/
def State.gbit (s : State) (g : Nat) : Bool := (s.arrByte (g / 8)).getLsbD (7 - g % 8)

/-- `field(ARR, start, start + w - 1)`, the definition of rule R133. -/
def State.field (s : State) (start w : Nat) : Nat :=
  ∑ k ∈ Finset.range w, (s.gbit (start + k)).toNat * 2 ^ (w - 1 - k)

/-- The bytes of a context's source view (rule R62). -/
def State.viewBytes (s : State) (c : Context) : List Byte :=
  (List.range c.len.toNat).map fun i => s.srcByte (c.base.toNat + i)

/-- The elements of the queue, oldest first, each with its flag byte (rule R42). -/
def State.elements (s : State) : List (Handle × Byte) :=
  (List.range s.uc.toNat).map fun i => (s.handleIn (s.slot i), s.flagIn (s.slot i))

/-- Slot `j` is occupied iff `(j - RI) mod C < UC` (rule R42). -/
abbrev State.Occupied (s : State) (j : Nat) : Prop :=
  (j + s.params.c - s.ri.toNat) % s.params.c < s.uc.toNat

/-- How many `HOLD(h)` events a list of responses carries. -/
def holdsOf (h : Handle) (rs : List Response) : Nat := (rs.flatMap (·.events)).count (.hold h)

/-- How many `RELEASE(h)` events a list of responses carries. -/
def releasesOf (h : Handle) (rs : List Response) : Nat := (rs.flatMap (·.events)).count (.release h)

/-! ### Invariants -/

/-- Rule R23 (i) to (v), for a context that holds an encoder over a memory of `nS` bytes. -/
structure Context.Inv (nS : Nat) (c : Context) : Prop where
  view : c.base.toNat + c.len.toNat ≤ nS
  cursor : c.rc.toNat ≤ c.len.toNat
  remaining : c.br.toNat ≤ 254
  balance : c.lc.toNat + c.br.toNat + c.cz.toNat = c.rc.toNat
  finished : c.fin = true → c.br = 0#8 ∧ c.rc = c.len ∧ c.cz = false

/-- What every state a run reaches satisfies: the parameters in range (rule R4), the shapes of rule R20, the
memories in canonical form, the contexts of rule R23, the queue of rules R40 and R43, `FAULT` of rule R46. -/
structure State.Inv (s : State) : Prop where
  params : s.params.InRange
  arrForm : s.arr.wf s.params.nA = true
  srcForm : s.src.wf s.params.nS = true
  contexts : s.ctx.length = s.params.nCtx
  encoders : ∀ c ∈ s.ctx, c.valid = true → c.Inv s.params.nS
  handles : s.qh.length = s.params.c
  flags : s.qf.length = s.params.c
  head : s.ri.toNat < s.params.c
  fill : s.uc.toNat ≤ s.params.c
  emptySlots : ∀ j < s.params.c, ¬ s.Occupied j → s.handleIn j = emptyHandle
  haltBit : s.faultReg.getLsbD 0 = s.faultReg.getLsbD 2
  reservedBits : s.faultReg.getLsbD 6 = false ∧ s.faultReg.getLsbD 7 = false

/-- The event law of rule R203: holds since hardware reset, less releases, is the number of slots. -/
def State.EventLaw (s : State) : Prop :=
  ∀ h : Handle, h ≠ emptyHandle →
    holdsOf h s.responses = releasesOf h s.responses + s.qh.count h

/-- Rule R23 (vi): the literals a context has still to emit are non-zero. -/
def State.LiteralsNonzero (s : State) : Prop :=
  ∀ c ∈ s.ctx, c.valid = true → ∀ i < c.br.toNat, s.srcByte (c.base.toNat + c.lc.toNat + i) ≠ 0#8

/-! ### The fault a command reports -/

/-- A bit-range descriptor that is malformed: `start ≥ end` or width above 16 (rule R109). -/
abbrev Malformed (start stop : Half) : Prop :=
  stop.toNat ≤ start.toNat ∨ 16 < stop.toNat - start.toNat + 1

/-- The command's `space` code is reserved (rule R108). -/
def HasReservedSpace : Instr → Prop
  | .mrd space _ => 2 ≤ space.toNat
  | .mwr space _ _ => 2 ≤ space.toNat
  | _ => False

/-- The command's descriptor is malformed (rule R109). -/
def HasBadDescriptor : Instr → Prop
  | .brd start stop => Malformed start stop
  | .bwr start stop _ => Malformed start stop
  | _ => False

/-- The command's context conditions of rule R266. -/
def HasBadContext (s : State) : Instr → Prop
  | .cinit k _ _ => s.params.nCtx ≤ k.toNat
  | .cfin k => s.params.nCtx ≤ k.toNat ∨ (s.getCtx k).valid = false
  | .cnext k => s.params.nCtx ≤ k.toNat ∨ (s.getCtx k).valid = false
  | .ccopy k k2 =>
    s.params.nCtx ≤ k.toNat ∨ s.params.nCtx ≤ k2.toNat ∨ (s.getCtx k2).valid = false
  | _ => False

/-- The command would touch a byte outside its space (rule R73). -/
def HasBadRange (s : State) : Instr → Prop
  | .mrd space addr => (if space = 0#4 then s.params.nA else s.params.nS) ≤ addr.toNat
  | .mwr space addr _ => (if space = 0#4 then s.params.nA else s.params.nS) ≤ addr.toNat
  | .brd _ stop => s.params.nA ≤ stop.toNat / 8
  | .bwr _ stop _ => s.params.nA ≤ stop.toNat / 8
  | .bget offset => s.params.nA ≤ offset.toNat / 8
  | .bput offset _ => s.params.nA ≤ offset.toNat / 8
  | .cinit _ base len => s.params.nS < base.toNat + len.toNat
  | _ => False

/-- CNEXT on a finished context (rule R268). -/
def HasFinished (s : State) : Instr → Prop
  | .cnext k => (s.getCtx k).fin = true
  | _ => False

/-- `e` is the fault rule R270 has the command report: the first of the list whose condition holds. -/
def Reports (s : State) (i : Instr) (e : ErrCode) : Prop :=
  (s.halted = true ∧ i ≠ .fstat ∧ e = .halted) ∨
  ((s.halted = false ∨ i = .fstat) ∧
    ((HasReservedSpace i ∧ e = .illegal) ∨
    (¬ HasReservedSpace i ∧ HasBadDescriptor i ∧ e = .desc) ∨
    (¬ HasReservedSpace i ∧ ¬ HasBadDescriptor i ∧ HasBadContext s i ∧ e = .ctx) ∨
    (¬ HasReservedSpace i ∧ ¬ HasBadDescriptor i ∧ ¬ HasBadContext s i ∧ HasBadRange s i ∧
      e = .range) ∨
    (¬ HasReservedSpace i ∧ ¬ HasBadDescriptor i ∧ ¬ HasBadContext s i ∧ ¬ HasBadRange s i ∧
      HasFinished s i ∧ e = .finished) ∨
    (¬ HasReservedSpace i ∧ ¬ HasBadDescriptor i ∧ ¬ HasBadContext s i ∧ ¬ HasBadRange s i ∧
      ¬ HasFinished s i ∧ e = .none)))

/-! ### The host's duty about a source view -/

/-- The context is between its first CNEXT and its end (rule R301). After the first CNEXT of a view that is not
empty `rc` is above 0, and an empty view is finished by its first CNEXT. -/
abbrev Context.Active (c : Context) : Prop := c.valid = true ∧ c.fin = false ∧ c.rc ≠ 0#16

/-- The command is an MWR into the view of an active context: what rule R301 forbids the host. -/
def WritesActiveView (s : State) : Instr → Prop
  | .mwr space addr _ =>
    space = 1#4 ∧ ∃ c ∈ s.ctx, c.Active ∧ c.base.toNat ≤ addr.toNat ∧
      addr.toNat < c.base.toNat + c.len.toNat
  | _ => False

end Sys2Proof.Machine
end

