-- ==== Sys2Proof/Certificates/Slice0/Obligations.lean ====
section
/-! DEFINITION. The statements about the model, each the Lean form of a rule of spec/. A free value of `Config`
never stands in one: where the spec leaves a value open, the statement holds for every value. -/

open Sys2Proof Sys2Proof.Machine Sys2Proof.Config

/-! ### Terms of the statements -/

/-- `FAULT.HALT = 1` (rule R46). -/
abbrev Sys2Proof.Claims.Halted (s : State) : Prop := s.faultReg.getLsbD 0 = true

/-- The state with one more response, of a command that completes, and no other change. -/
abbrev Sys2Proof.Claims.answered (s : State) (ok : Bool) (data : Word) (events : List Event) : State :=
  { s with responses := ⟨ok, .none, data, events⟩ :: s.responses }

/-- `t` is `s` after the fault `e` (rule R262): nothing of the block but `FAULT` changes (`draws` is the model's own
counter), `FAULT[code]` is set for codes 1 to 5 and `FAULT[0]` too for code 2, the response is `ok = 0, err = code`
with no event, and its `data` is 0 except for `E_FINISHED`. -/
def Sys2Proof.Claims.FaultTaken (s : State) (e : ErrCode) (t : State) : Prop :=
  (∃ data, (e ≠ .finished → data = 0#32) ∧
    t = { s with
      faultReg := t.faultReg
      responses := ⟨false, e, data, []⟩ :: s.responses
      draws := t.draws }) ∧
  ∀ j < 8, t.faultReg.getLsbD j =
    (s.faultReg.getLsbD j || decide (1 ≤ j ∧ j ≤ 5 ∧ e.code.toNat = j) || decide (j = 0 ∧ e = .desc))

/-- The command takes the fault `e`. -/
def Sys2Proof.Claims.Refuses (i : Instr) (s : State) (e : ErrCode) : Prop :=
  ∃ t, exec i s = .next t ∧ Sys2Proof.Claims.FaultTaken s e t

/-- The word is rejected (rule R105, checks 1 and 2): it changes nothing but `FAULT`; it raises `E_ILLEGAL`, or `E_HALTED`
when halted. -/
def Sys2Proof.Claims.Rejected (w : Cmd) : Prop :=
  ∀ (s : State) (rest : List HostInput), s.inputs = .command w :: rest →
    ∃ t, step s = .next t ∧
      (¬ Sys2Proof.Claims.Halted s → Sys2Proof.Claims.FaultTaken { s with inputs := rest } .illegal t) ∧
      (Sys2Proof.Claims.Halted s → Sys2Proof.Claims.FaultTaken { s with inputs := rest } .halted t)

/-- The words an encoding line of a command's rule gives (`match`, `mask`) decode to the command, and a word with its
unit and function that has another must-be-zero bit set is rejected. -/
def Sys2Proof.Claims.EncodedBy (pattern mask : Cmd) (command : Cmd → Instr) : Prop :=
  ∀ w : Cmd,
    (w &&& mask = pattern → decode w = .ok (command w)) ∧
    (w.extractLsb' 56 8 = pattern.extractLsb' 56 8 → w &&& mask ≠ pattern → Sys2Proof.Claims.Rejected w)

/-- The commands rule R70 calls free of side effects. -/
def Sys2Proof.Claims.OnlyReads : Instr → Prop
  | .mrd _ _ => True
  | .brd _ _ => True
  | .bget _ => True
  | .qread => True
  | .qpeek _ => True
  | .qreadf => True
  | .qpeekf _ => True
  | .qstat => True
  | .cfin _ => True
  | .fstat => True
  | _ => False

/-- The greatest length of the stream of a view of `len` bytes: `len + max(1, ceil(len / 254))` (rule R117 (e)). -/
def Sys2Proof.Claims.streamBound (len : Nat) : Nat := len + max 1 ((len + 253) / 254)

open Sys2Proof.Claims

/-! ### Encoding -/

/-- Decoding gives back every command that is encoded: no operand bit is dropped (rules R97, R98). -/
def Obligations.DecodeOfEncode : Prop := ∀ i : Instr, decode (encode i) = .ok i

/-- The decoder is injective: a word that decodes to a command is that command's one encoding (rule R106). -/
def Obligations.EncodeOfDecode : Prop := ∀ (w : Cmd) (i : Instr), decode w = .ok i → encode i = w

/-- Rule R98: a word selects at most one row of the opcode map; the row it selects gives its command; a word that
selects none has no command. -/
def Obligations.OpcodeRowsDisjoint : Prop :=
  ∀ w : Cmd,
    (∀ r ∈ opcodeMap, w &&& r.bits.mask = r.bits.pattern → decode w = .ok (r.operands w)) ∧
    (∀ r ∈ opcodeMap, ∀ r' ∈ opcodeMap, w &&& r.bits.mask = r.bits.pattern →
      w &&& r'.bits.mask = r'.bits.pattern → r.bits = r'.bits) ∧
    ((∀ r ∈ opcodeMap, w &&& r.bits.mask ≠ r.bits.pattern) → ∃ e, decode w = .error e)

/-- Words written out from the encodings of rules R93 to R96, one or more per unit (95_test_vectors.md V51), decode to
their commands. -/
def Obligations.SampleWordsDecode : Prop :=
  decode 0x021003FFA5000000#64 = .ok (.mwr 1#4 0x3FF#16 0xA5#8) ∧
  decode 0x1101F001FFBEEF00#64 = .ok (.bwr 0x1F0#16 0x1FF#16 0xBEEF#16) ∧
  decode 0x1301FF0000000100#64 = .ok (.bput 0x1FF#16 1#1) ∧
  decode 0x2030012300450000#64 = .ok (.cinit 3#4 0x123#16 0x45#16) ∧
  decode 0x2323000000000000#64 = .ok (.ccopy 2#4 3#4) ∧
  decode 0x30DEADBEEF5A0000#64 = .ok (.qappend 0xDEADBEEF#32 0x5A#8) ∧
  decode 0x3500000000000003#64 = .ok (.qpeekf 3#16)

/-- Rule R264: a word that is no command's encoding (rules R105 to R107) and an MRD or MWR with a reserved space code
(rule R108) are rejected, and the halt bit is not set. -/
def Obligations.IllegalWordsReported : Prop :=
  ∀ w : Cmd,
    ((∀ i : Instr, encode i ≠ w) ∨
      (∃ space addr, 2 ≤ space.toNat ∧ w = encode (.mrd space addr)) ∨
      ∃ space addr data, 2 ≤ space.toNat ∧ w = encode (.mwr space addr data)) →
    Rejected w

/-- Rule R107: the reserved unit and function codes are rejected by name, and all are illegal. -/
def Obligations.ReservedCodesIllegal : Prop :=
  ∀ w : Cmd,
    (4 ≤ (w.extractLsb' 60 4).toNat → decode w = .error .reservedUnit) ∧
    (w.extractLsb' 60 4 = 0#4 → w.extractLsb' 56 4 = 0#4 ∨ 4 ≤ (w.extractLsb' 56 4).toNat →
      decode w = .error .reservedFunction) ∧
    (w.extractLsb' 60 4 = 1#4 → 4 ≤ (w.extractLsb' 56 4).toNat → decode w = .error .reservedFunction) ∧
    (w.extractLsb' 60 4 = 2#4 → 4 ≤ (w.extractLsb' 56 4).toNat → decode w = .error .reservedFunction) ∧
    (w.extractLsb' 60 4 = 3#4 → 9 ≤ (w.extractLsb' 56 4).toNat → decode w = .error .reservedFunction) ∧
    (decode w = .error .reservedUnit ∨ decode w = .error .reservedFunction → Rejected w)

/-- Rule R90: a command sent as bytes goes most significant byte first, eight bytes, and is read back whole. -/
def Obligations.SerialisedWordRoundTrip : Prop :=
  ∀ w : Cmd, wordOfBytes (bytesOfWord w) = .ok w ∧ (bytesOfWord w).length = 8 ∧
    (bytesOfWord w).head? = some (w.extractLsb' 56 8) ∧ decodeBytes (bytesOfWord w) = decode w

/-- Rule R100: the packed response holds `ok` at bit 36, the number of the fault (rule R261) at bits 35 to 32 and `data`
below. -/
def Obligations.ResponsePacking : Prop :=
  (∀ r : Response, r.packed.getLsbD 36 = r.ok ∧ r.packed.extractLsb' 32 4 = r.err.code ∧
    r.packed.extractLsb' 0 32 = r.data) ∧
  ErrCode.none.code = 0#4 ∧ ErrCode.illegal.code = 1#4 ∧ ErrCode.desc.code = 2#4 ∧
  ErrCode.range.code = 3#4 ∧ ErrCode.finished.code = 4#4 ∧ ErrCode.ctx.code = 5#4 ∧
  ErrCode.halted.code = 6#4

/-- Rule R112: what the assembler accepts is well formed, so no assembled command can raise `E_DESC`. -/
def Obligations.AssembledNeverMalformed : Prop :=
  ∀ (line : List Char) (is : List Instr), assembleLine line = some is → ∀ i ∈ is,
    i.wellFormed = true ∧
    ∀ (s t : State) (r : Response), exec i s = .next t → t.responses = r :: s.responses → r.err ≠ .desc

/-! ### The host and the step -/

/-- A step performs the command the host's next word decodes to, on the state that has taken the word (rule R8). -/
def Obligations.StepRunsDecodedCommand : Prop :=
  ∀ (s : State) (w : Cmd) (i : Instr) (rest : List HostInput), s.inputs = .command w :: rest →
    decode w = .ok i → step s = exec i { s with inputs := rest }

/-- With nothing presented the block waits; hardware reset (rules R290, R291) at any time, in a command or not, gives the
state of rule R55 with no response and no event: all contexts invalid, the queue empty, every slot `EMPTY`, every flag
byte zero, `FAULT = 0`, and no content of `ARR` or `SRC` carried over. -/
def Obligations.HardwareResetOrWait : Prop :=
  ∀ s : State,
    (s.inputs = [] → step s = .next s) ∧
    ∀ (cut : Option Cmd) (rest : List HostInput), s.inputs = .reset cut :: rest →
      ∃ t, step s = .next t ∧ t.params = s.params ∧ t.inputs = rest ∧ t.responses = [] ∧
        t.ctx.length = s.params.nCtx ∧ (∀ c ∈ t.ctx, c.valid = false) ∧
        t.qh = List.replicate s.params.c emptyHandle ∧ t.qf = List.replicate s.params.c 0#8 ∧
        t.ri = 0#16 ∧ t.uc = 0#16 ∧ t.faultReg = 0#8 ∧ t.arr = [] ∧ t.src = []

/-- The reset state of every machine in range (rules R4, R55) meets the invariant, the event law and rule R23 (vi), and
`State.reset` is the reset state of the parameters rule R4 lists (a choice of the model's: log entry 1). -/
def Obligations.ResetMeetsInvariants : Prop :=
  (∀ p : Params, p.InRange → (State.resetWith p).Inv ∧ (State.resetWith p).EventLaw ∧
    (State.resetWith p).LiteralsNonzero) ∧
  State.reset = State.resetWith ⟨64, 1024, 4, 4⟩

/-- Every step keeps the invariant (rules R20, R23 (i) to (v), R40, R43, R46) and the parameters (rule R20). -/
def Obligations.StepKeepsInvariant : Prop :=
  ∀ s t : State, s.Inv → step s = .next t → t.Inv ∧ t.params = s.params

/-- Every step keeps the event law of rule R203: for every handle but `EMPTY`, holds less releases since hardware reset
equals the number of slots that hold it. -/
def Obligations.StepKeepsEventLaw : Prop :=
  ∀ s t : State, s.Inv → s.EventLaw → step s = .next t → t.EventLaw

/-- Rule R23 (vi): no pending literal is zero, as long as the host writes into no active view (rule R301). -/
def Obligations.StepKeepsLiteralsNonzero : Prop :=
  ∀ s t : State, s.Inv → s.LiteralsNonzero →
    (∀ w i rest, s.inputs = .command w :: rest → decode w = .ok i → ¬ WritesActiveView s i) →
    step s = .next t → t.LiteralsNonzero

/-- Rules R8 and R100: every word gets exactly one response; `ok = 1` implies `err = 0`; only QAPPEND, QPOP and QRESET
report events, and no event names the empty handle (rule R101). -/
def Obligations.EveryWordAnswered : Prop :=
  ∀ (s : State) (w : Cmd) (rest : List HostInput), s.inputs = .command w :: rest →
    ∃ t r, step s = .next t ∧ t.inputs = rest ∧ t.responses = r :: s.responses ∧
      (r.ok = true → r.err = .none) ∧
      (∀ e ∈ r.events, e ≠ .hold emptyHandle ∧ e ≠ .release emptyHandle) ∧
      (r.events ≠ [] →
        (∃ h f, decode w = .ok (.qappend h f)) ∨ decode w = .ok .qpop ∨ decode w = .ok .qreset)

/-! ### Faults -/

/-- Rule R262: a word whose response reports a fault has done nothing else. -/
def Obligations.FaultHasNoOtherEffect : Prop :=
  ∀ (s t : State) (w : Cmd) (rest : List HostInput) (r : Response), s.inputs = .command w :: rest →
    step s = .next t → t.responses = r :: s.responses → r.err ≠ .none →
    FaultTaken { s with inputs := rest } r.err t

/-- Rule R270: of the conditions that hold for a word, the first in the order of the list is reported and recorded, and no
other; where none holds the command reports no fault, and only then may it answer `ok = 1` or a boolean. -/
def Obligations.FaultPriority : Prop :=
  ∀ (s : State) (w : Cmd) (rest : List HostInput) (e : ErrCode), s.inputs = .command w :: rest →
    ((∃ i, decode w = .ok i ∧ Reports s i e) ∨
      ((∀ i : Instr, encode i ≠ w) ∧ e = if s.halted then .halted else .illegal)) →
    ∃ t r, step s = .next t ∧ t.responses = r :: s.responses ∧ r.err = e ∧
      t.faultReg = recordFault e s.faultReg

/-- Rules R263 and R269: while halted, every word but the exact FSTAT word is refused with `E_HALTED` and changes
nothing; no word clears `HALT`; hardware reset does. -/
def Obligations.HaltRefusesAllButFstat : Prop :=
  ∀ s : State, Halted s →
    (∀ w rest, s.inputs = .command w :: rest → w ≠ 0x0300000000000000#64 →
      step s = .next { s with inputs := rest, responses := ⟨false, .halted, 0#32, []⟩ :: s.responses }) ∧
    (∀ rest, s.inputs = .command 0x0300000000000000#64 :: rest →
      step s = .next (answered { s with inputs := rest } true (s.faultReg.setWidth 32) [])) ∧
    (∀ cut rest, s.inputs = .reset cut :: rest → ∃ t, step s = .next t ∧ ¬ Halted t)

/-- Rule R46: a bit of `FAULT`, once 1, stays 1 through every command. -/
def Obligations.FaultBitsSticky : Prop :=
  ∀ (s t : State) (w : Cmd) (rest : List HostInput) (j : Nat), s.inputs = .command w :: rest →
    step s = .next t → s.faultReg.getLsbD j = true → t.faultReg.getLsbD j = true

/-- Rules R109 and R265: a malformed descriptor raises `E_DESC` whether or not it is in range, and the block is halted
after it. -/
def Obligations.MalformedDescriptorHalts : Prop :=
  ∀ (s : State) (start stop value : Half), ¬ Halted s → Malformed start stop →
    (∃ t, exec (.brd start stop) s = .next t ∧ FaultTaken s .desc t ∧ Halted t) ∧
    (∃ t, exec (.bwr start stop value) s = .next t ∧ FaultTaken s .desc t ∧ Halted t)

/-- Rule R271: a boolean `false` is no fault: it occurs in the listed cases, and the command changes nothing. -/
def Obligations.BooleanResultsAreNoFaults : Prop :=
  ∀ (i : Instr) (s t : State) (r : Response), s.Inv → exec i s = .next t →
    t.responses = r :: s.responses → r.ok = false → r.err = .none →
    t = { s with responses := r :: s.responses } ∧
    ((∃ h f, i = .qappend h f ∧ s.uc.toNat = s.params.c) ∨
      ((i = .qpop ∨ i = .qread ∨ i = .qreadf ∨ ∃ f, i = .qsetf f) ∧ s.uc = 0#16) ∨
      ∃ index : Half, (i = .qpeek index ∨ i = .qpeekf index) ∧ s.uc.toNat ≤ index.toNat)

/-! ### Who writes what -/

/-- Rule R60's last column: `ARR` is written by BWR, BPUT and MWR only, `SRC` by MWR only, `QH` by QAPPEND, QPOP and QRESET
only, `QF` by QAPPEND, QSETF and QRESET only. -/
def Obligations.SpacesWrittenOnlyBy : Prop :=
  ∀ (i : Instr) (s t : State), exec i s = .next t →
    ((∀ a b v, i ≠ .bwr a b v) → (∀ o b, i ≠ .bput o b) → (∀ a d, i ≠ .mwr 0#4 a d) → t.arr = s.arr) ∧
    ((∀ a d, i ≠ .mwr 1#4 a d) → t.src = s.src) ∧
    ((∀ h f, i ≠ .qappend h f) → i ≠ .qpop → i ≠ .qreset → t.qh = s.qh) ∧
    ((∀ h f, i ≠ .qappend h f) → (∀ f, i ≠ .qsetf f) → i ≠ .qreset → t.qf = s.qf)

/-- Rule R24: contexts do not alias: a context is changed only by a CINIT, CNEXT or CCOPY that names it as its
destination, and no other command changes any context (rule R21). -/
def Obligations.ContextsDoNotAlias : Prop :=
  ∀ (i : Instr) (s t : State) (k : BitVec 4), exec i s = .next t →
    (∀ base len, i ≠ .cinit k base len) → i ≠ .cnext k → (∀ k2, i ≠ .ccopy k k2) →
    t.getCtx k = s.getCtx k

/-- Rule R70: a command that only reads changes nothing, and gives the same response again. -/
def Obligations.ReadsHaveNoSideEffect : Prop :=
  ∀ (i : Instr) (s t : State) (r : Response), OnlyReads i → exec i s = .next t →
    t.responses = r :: s.responses → r.err = .none →
    t = { s with responses := r :: s.responses } ∧
    exec i t = .next { t with responses := r :: t.responses }

/-- Rule R70: MWR, BWR and BPUT are idempotent. -/
def Obligations.WritesAreIdempotent : Prop :=
  ∀ (i : Instr) (s t : State) (r : Response),
    ((∃ sp a d, i = .mwr sp a d) ∨ (∃ a b v, i = .bwr a b v) ∨ ∃ o b, i = .bput o b) →
    exec i s = .next t → t.responses = r :: s.responses → r.err = .none →
    exec i t = .next { t with responses := r :: t.responses }

/-! ### System commands -/

/-- Rule R240, MRD: its encoding, its checks in order, the byte it returns; nothing else changes. -/
def Obligations.MrdReadsByte : Prop :=
  EncodedBy 0x0100000000000000#64 0xFF0F0000FFFFFFFF#64
    (fun w => .mrd (w.extractLsb' 52 4) (w.extractLsb' 32 16)) ∧
  ∀ (s : State) (space : BitVec 4) (addr : Half),
    (Halted s → Refuses (.mrd space addr) s .halted) ∧
    (¬ Halted s → 2 ≤ space.toNat → Refuses (.mrd space addr) s .illegal) ∧
    (¬ Halted s → s.params.nA ≤ addr.toNat → Refuses (.mrd 0#4 addr) s .range) ∧
    (¬ Halted s → s.params.nS ≤ addr.toNat → Refuses (.mrd 1#4 addr) s .range) ∧
    (¬ Halted s → addr.toNat < s.params.nA →
      exec (.mrd 0#4 addr) s = .next (answered s true ((s.arrByte addr.toNat).setWidth 32) [])) ∧
    (¬ Halted s → addr.toNat < s.params.nS →
      exec (.mrd 1#4 addr) s = .next (answered s true ((s.srcByte addr.toNat).setWidth 32) []))

/-- Rule R242, MWR: its encoding, its checks in order, the one byte it stores; every other byte of both memories reads as
before and nothing else changes. -/
def Obligations.MwrWritesByte : Prop :=
  EncodedBy 0x0200000000000000#64 0xFF0F000000FFFFFF#64
    (fun w => .mwr (w.extractLsb' 52 4) (w.extractLsb' 32 16) (w.extractLsb' 24 8)) ∧
  ∀ (s : State) (space : BitVec 4) (addr : Half) (data : Byte),
    (Halted s → Refuses (.mwr space addr data) s .halted) ∧
    (¬ Halted s → 2 ≤ space.toNat → Refuses (.mwr space addr data) s .illegal) ∧
    (¬ Halted s → s.params.nA ≤ addr.toNat → Refuses (.mwr 0#4 addr data) s .range) ∧
    (¬ Halted s → s.params.nS ≤ addr.toNat → Refuses (.mwr 1#4 addr data) s .range) ∧
    (¬ Halted s → addr.toNat < s.params.nA → ∃ t, exec (.mwr 0#4 addr data) s = .next t ∧
      t = { answered s true 0#32 [] with arr := t.arr } ∧
      ∀ a, t.arrByte a = if a = addr.toNat then data else s.arrByte a) ∧
    (¬ Halted s → addr.toNat < s.params.nS → ∃ t, exec (.mwr 1#4 addr data) s = .next t ∧
      t = { answered s true 0#32 [] with src := t.src } ∧
      ∀ a, t.srcByte a = if a = addr.toNat then data else s.srcByte a)

/-- Rule R244, FSTAT: the exact word; it returns `FAULT`, halted or not, and does not clear it. -/
def Obligations.FstatReadsFaultRegister : Prop :=
  EncodedBy 0x0300000000000000#64 0xFFFFFFFFFFFFFFFF#64 (fun _ => .fstat) ∧
  ∀ s : State, exec .fstat s = .next (answered s true (BitVec.ofNat 32 s.faultReg.toNat) [])

/-! ### The bit-range codec -/

/-- Derived from rule R132, which marks the tests as its own inference: the span of a well-formed descriptor, last byte less first byte plus 1, is 1, 2 or 3 bytes, as `s + w` says;
three bytes need `s ≥ 1` and `w ≥ 10`. -/
def Obligations.SpanOfRange : Prop :=
  ∀ start stop : Half, ¬ Malformed start stop →
    rangeSpan start stop = stop.toNat / 8 - start.toNat / 8 + 1 ∧
    (rangeSpan start stop = 1 ↔ start.toNat % 8 + (stop.toNat - start.toNat + 1) ≤ 8) ∧
    (rangeSpan start stop = 2 ↔ 8 < start.toNat % 8 + (stop.toNat - start.toNat + 1) ∧
      start.toNat % 8 + (stop.toNat - start.toNat + 1) ≤ 16) ∧
    (rangeSpan start stop = 3 ↔ 16 < start.toNat % 8 + (stop.toNat - start.toNat + 1)) ∧
    (rangeSpan start stop = 1 ∨ rangeSpan start stop = 2 ∨ rangeSpan start stop = 3) ∧
    (rangeSpan start stop = 3 → 1 ≤ start.toNat % 8 ∧ 10 ≤ stop.toNat - start.toNat + 1)

/-- Rules R140 and R133, BRD: its encoding, its checks in order; it returns the field the definition of rule R133 gives, and
nothing else changes. -/
def Obligations.BrdReadsField : Prop :=
  EncodedBy 0x1000000000000000#64 0xFF00000000FFFFFF#64
    (fun w => .brd (w.extractLsb' 40 16) (w.extractLsb' 24 16)) ∧
  ∀ (s : State) (start stop : Half),
    (Halted s → Refuses (.brd start stop) s .halted) ∧
    (¬ Halted s → Malformed start stop → Refuses (.brd start stop) s .desc) ∧
    (¬ Halted s → ¬ Malformed start stop → s.params.nA ≤ stop.toNat / 8 →
      Refuses (.brd start stop) s .range) ∧
    (¬ Halted s → ¬ Malformed start stop → stop.toNat / 8 < s.params.nA →
      ∃ data : Word, exec (.brd start stop) s = .next (answered s true data []) ∧
        data.toNat = s.field start.toNat (stop.toNat - start.toNat + 1))

/-- Rules R142 and R135, BWR: its encoding, its checks in order; the field takes the value's low bits, most significant
first, every other global bit and every byte outside the span keep their value, and nothing else changes. -/
def Obligations.BwrWritesField : Prop :=
  EncodedBy 0x1100000000000000#64 0xFF000000000000FF#64
    (fun w => .bwr (w.extractLsb' 40 16) (w.extractLsb' 24 16) (w.extractLsb' 8 16)) ∧
  ∀ (s : State) (start stop value : Half),
    (Halted s → Refuses (.bwr start stop value) s .halted) ∧
    (¬ Halted s → Malformed start stop → Refuses (.bwr start stop value) s .desc) ∧
    (¬ Halted s → ¬ Malformed start stop → s.params.nA ≤ stop.toNat / 8 →
      Refuses (.bwr start stop value) s .range) ∧
    (¬ Halted s → ¬ Malformed start stop → stop.toNat / 8 < s.params.nA →
      ∃ t, exec (.bwr start stop value) s = .next t ∧
        t = { answered s true 0#32 [] with arr := t.arr } ∧
        (∀ g, t.gbit g =
          if start.toNat ≤ g ∧ g ≤ stop.toNat then value.getLsbD (stop.toNat - g) else s.gbit g) ∧
        ∀ a, a < start.toNat / 8 ∨ stop.toNat / 8 < a → t.arrByte a = s.arrByte a)

/-- Rule R144, BGET: its encoding, its checks in order; it returns the bit at the global index, and nothing else changes. -/
def Obligations.BgetReadsBit : Prop :=
  EncodedBy 0x1200000000000000#64 0xFF0000FFFFFFFFFF#64 (fun w => .bget (w.extractLsb' 40 16)) ∧
  ∀ (s : State) (offset : Half),
    (Halted s → Refuses (.bget offset) s .halted) ∧
    (¬ Halted s → s.params.nA ≤ offset.toNat / 8 → Refuses (.bget offset) s .range) ∧
    (¬ Halted s → offset.toNat / 8 < s.params.nA →
      exec (.bget offset) s =
        .next (answered s true (if s.gbit offset.toNat then 1#32 else 0#32) []))

/-- Rule R146, BPUT: its encoding, its checks in order; the bit at the global index takes the operand, every other global
bit and every other byte keep their value, and nothing else changes. -/
def Obligations.BputWritesBit : Prop :=
  EncodedBy 0x1300000000000000#64 0xFF0000FFFFFFFEFF#64
    (fun w => .bput (w.extractLsb' 40 16) (w.extractLsb' 8 1)) ∧
  ∀ (s : State) (offset : Half) (bit : BitVec 1),
    (Halted s → Refuses (.bput offset bit) s .halted) ∧
    (¬ Halted s → s.params.nA ≤ offset.toNat / 8 → Refuses (.bput offset bit) s .range) ∧
    (¬ Halted s → offset.toNat / 8 < s.params.nA →
      ∃ t, exec (.bput offset bit) s = .next t ∧
        t = { answered s true 0#32 [] with arr := t.arr } ∧
        (∀ g, t.gbit g = if g = offset.toNat then bit.getLsbD 0 else s.gbit g) ∧
        ∀ a, a ≠ offset.toNat / 8 → t.arrByte a = s.arrByte a)

/-- Rule R150 (a): a BWR and then a BRD of the same range give back the value's low `w` bits. -/
def Obligations.BitRangeRoundTrip : Prop :=
  ∀ (s : State) (start stop value : Half), ¬ Halted s → ¬ Malformed start stop →
    stop.toNat / 8 < s.params.nA →
    ∃ t, exec (.bwr start stop value) s = .next t ∧
      exec (.brd start stop) t = .next
        (answered t true (BitVec.ofNat 32 (value.toNat % 2 ^ (stop.toNat - start.toNat + 1))) [])

/-- Rule R150 (e) and (f): BGET of an index inside a range is that bit of BRD's value, before and after a BPUT of the index,
which replaces that bit and no other. -/
def Obligations.SingleBitAgreesWithRange : Prop :=
  ∀ (s : State) (start stop g : Half) (bit : BitVec 1), ¬ Halted s → ¬ Malformed start stop →
    stop.toNat / 8 < s.params.nA → start.toNat ≤ g.toNat → g.toNat ≤ stop.toNat →
    ∃ (d d' : Word) (t : State),
      exec (.brd start stop) s = .next (answered s true d []) ∧
      exec (.bget g) s =
        .next (answered s true (if d.getLsbD (stop.toNat - g.toNat) then 1#32 else 0#32) []) ∧
      exec (.bput g bit) s = .next t ∧
      exec (.brd start stop) t = .next (answered t true d' []) ∧
      ∀ j, d'.getLsbD j = if j = stop.toNat - g.toNat then bit.getLsbD 0 else d.getLsbD j

/-- Rule R135: writes to disjoint bit-ranges commute: in either order every global bit of `ARR` ends the same. -/
def Obligations.DisjointWritesCommute : Prop :=
  ∀ (s : State) (a b v a' b' v' : Half), ¬ Halted s → ¬ Malformed a b → ¬ Malformed a' b' →
    b.toNat / 8 < s.params.nA → b'.toNat / 8 < s.params.nA → b.toNat < a'.toNat →
    ∃ t u t' u', exec (.bwr a b v) s = .next t ∧ exec (.bwr a' b' v') t = .next u ∧
      exec (.bwr a' b' v') s = .next t' ∧ exec (.bwr a b v) t' = .next u' ∧
      ∀ g, u.gbit g = u'.gbit g

/-! ### The COBS encoder -/

/-- Rule R170, CINIT: its encoding, its checks in order, all eight fields of the context; nothing else changes. -/
def Obligations.CinitConstructs : Prop :=
  EncodedBy 0x2000000000000000#64 0xFF0F00000000FFFF#64
    (fun w => .cinit (w.extractLsb' 52 4) (w.extractLsb' 32 16) (w.extractLsb' 16 16)) ∧
  ∀ (s : State) (k : BitVec 4) (base len : Half),
    (Halted s → Refuses (.cinit k base len) s .halted) ∧
    (¬ Halted s → s.params.nCtx ≤ k.toNat → Refuses (.cinit k base len) s .ctx) ∧
    (¬ Halted s → k.toNat < s.params.nCtx → s.params.nS < base.toNat + len.toNat →
      Refuses (.cinit k base len) s .range) ∧
    (¬ Halted s → k.toNat < s.params.nCtx → base.toNat + len.toNat ≤ s.params.nS →
      exec (.cinit k base len) s = .next { answered s true 0#32 [] with
        ctx := s.ctx.set k.toNat
          { valid := true, base := base, len := len, rc := 0#16, br := 0#8, lc := 0#16,
            cz := false, fin := false } })

/-- Rule R172, CFIN: its encoding, its checks in order; it returns the finished flag, and nothing else changes. -/
def Obligations.CfinReadsFinished : Prop :=
  EncodedBy 0x2100000000000000#64 0xFF0FFFFFFFFFFFFF#64 (fun w => .cfin (w.extractLsb' 52 4)) ∧
  ∀ (s : State) (k : BitVec 4),
    (Halted s → Refuses (.cfin k) s .halted) ∧
    (¬ Halted s → s.params.nCtx ≤ k.toNat ∨ (s.getCtx k).valid = false → Refuses (.cfin k) s .ctx) ∧
    (¬ Halted s → k.toNat < s.params.nCtx → (s.getCtx k).valid = true →
      exec (.cfin k) s =
        .next (answered s true (if (s.getCtx k).fin then 1#32 else 0#32) []))

/-- Derived from rules R174, R162, R164 (the spec's own summary of R162) and R165: CNEXT in the Scan phase: its encoding, its checks in order, and by the number `r` of
non-zero bytes from `rc` to the first zero or the end of the view the prefix it returns, the context's new fields and the
finished flag; nothing else changes. -/
def Obligations.CnextScans : Prop :=
  EncodedBy 0x2200000000000000#64 0xFF0FFFFFFFFFFFFF#64 (fun w => .cnext (w.extractLsb' 52 4)) ∧
  ∀ (s : State) (k : BitVec 4),
    (Halted s → Refuses (.cnext k) s .halted) ∧
    (¬ Halted s → s.params.nCtx ≤ k.toNat ∨ (s.getCtx k).valid = false →
      Refuses (.cnext k) s .ctx) ∧
    (¬ Halted s → k.toNat < s.params.nCtx → (s.getCtx k).valid = true → (s.getCtx k).fin = true →
      Refuses (.cnext k) s .finished) ∧
    ∀ (c : Context) (r : Nat), ¬ Halted s → k.toNat < s.params.nCtx → s.getCtx k = c →
      c.valid = true → c.fin = false → c.br = 0#8 → c.rc.toNat + r ≤ c.len.toNat →
      (∀ i < r, s.srcByte (c.base.toNat + c.rc.toNat + i) ≠ 0#8) →
      (c.rc.toNat + r < c.len.toNat → s.srcByte (c.base.toNat + c.rc.toNat + r) = 0#8) →
      (r ≤ 253 → c.rc.toNat + r < c.len.toNat →
        exec (.cnext k) s = .next { answered s true (BitVec.ofNat 32 (r + 1)) [] with
          ctx := s.ctx.set k.toNat { c with
            lc := c.rc, br := BitVec.ofNat 8 r, rc := BitVec.ofNat 16 (c.rc.toNat + r + 1),
            cz := true } }) ∧
      (r ≤ 253 → c.rc.toNat + r = c.len.toNat →
        exec (.cnext k) s = .next { answered s true (BitVec.ofNat 32 (r + 1)) [] with
          ctx := s.ctx.set k.toNat { c with
            lc := c.rc, br := BitVec.ofNat 8 r, rc := c.len, cz := false, fin := decide (r = 0) } }) ∧
      (254 ≤ r →
        exec (.cnext k) s = .next { answered s true 255#32 [] with
          ctx := s.ctx.set k.toNat { c with
            lc := c.rc, br := 254#8, rc := BitVec.ofNat 16 (c.rc.toNat + 254), cz := false } })

/-- Rules R163 and R165, CNEXT in the Emit phase: the literal is read from `SRC` now, the literal cursor and the count
advance, and the stream is finished with the last literal of a last block that consumed no zero; nothing else changes. -/
def Obligations.CnextEmits : Prop :=
  ∀ (s : State) (k : BitVec 4) (c : Context), ¬ Halted s → k.toNat < s.params.nCtx → s.getCtx k = c →
    c.valid = true → c.fin = false → c.br ≠ 0#8 →
    exec (.cnext k) s =
      .next { answered s true ((s.srcByte (c.base.toNat + c.lc.toNat)).setWidth 32) [] with
        ctx := s.ctx.set k.toNat { c with
          lc := c.lc + 1#16, br := c.br - 1#8,
          fin := decide (c.br = 1#8 ∧ c.rc = c.len ∧ c.cz = false) } }

/-- Rule R176, CCOPY: its encoding, its checks in order; all eight fields are copied, and nothing else changes. -/
def Obligations.CcopyCopies : Prop :=
  EncodedBy 0x2300000000000000#64 0xFF00FFFFFFFFFFFF#64
    (fun w => .ccopy (w.extractLsb' 52 4) (w.extractLsb' 48 4)) ∧
  ∀ (s : State) (k k2 : BitVec 4),
    (Halted s → Refuses (.ccopy k k2) s .halted) ∧
    (¬ Halted s → s.params.nCtx ≤ k.toNat ∨ s.params.nCtx ≤ k2.toNat ∨ (s.getCtx k2).valid = false →
      Refuses (.ccopy k k2) s .ctx) ∧
    (¬ Halted s → k.toNat < s.params.nCtx → k2.toNat < s.params.nCtx → (s.getCtx k2).valid = true →
      exec (.ccopy k k2) s =
        .next { answered s true 0#32 [] with ctx := s.ctx.set k.toNat (s.getCtx k2) })

/-- Rule R167: after a CCOPY, at any point of the stream, both contexts give the same bytes from there on, however many
are taken. -/
def Obligations.CopyContinuesTheStream : Prop :=
  ∀ (s : State) (k k2 : BitVec 4), s.Inv → ¬ Halted s → k.toNat < s.params.nCtx →
    k2.toNat < s.params.nCtx → (s.getCtx k2).valid = true →
    ∃ t, exec (.ccopy k k2) s = .next t ∧
      ∀ fuel, (encodeLoop k fuel t).1 = (encodeLoop k2 fuel t).1

/-- Rules R118 and R168, the round trip: the host's loop over a new encoder collects a stream that the reference decoder
turns back into the view, and leaves the encoder finished. -/
def Obligations.StreamDecodesToView : Prop :=
  ∀ (s : State) (k : BitVec 4) (base len : Half) (fuel : Nat), s.Inv → ¬ Halted s →
    k.toNat < s.params.nCtx → s.getCtx k = newEncoder base len → streamBound len.toNat ≤ fuel →
    cobsDecode (encodeLoop k fuel s).1 = s.viewBytes (newEncoder base len) ∧
    ((encodeLoop k fuel s).2.getCtx k).fin = true

/-- Rule R117 (a) and (e): the stream has no zero byte, and between `L + 1` and `L + max(1, ceil(L / 254))` bytes. -/
def Obligations.StreamZeroFreeAndBounded : Prop :=
  ∀ (s : State) (k : BitVec 4) (base len : Half) (fuel : Nat), s.Inv → ¬ Halted s →
    k.toNat < s.params.nCtx → s.getCtx k = newEncoder base len → streamBound len.toNat ≤ fuel →
    0#8 ∉ (encodeLoop k fuel s).1 ∧ len.toNat + 1 ≤ (encodeLoop k fuel s).1.length ∧
    (encodeLoop k fuel s).1.length ≤ streamBound len.toNat

/-- Rule R166: a view of `n` zero bytes (an empty one among them) gives `n + 1` bytes `0x01`; a view of at most 254 bytes,
none of them zero, gives its length plus 1 and the bytes, with no trailing block. -/
def Obligations.StreamEdgeCases : Prop :=
  ∀ (s : State) (k : BitVec 4) (base len : Half) (fuel : Nat), s.Inv → ¬ Halted s →
    k.toNat < s.params.nCtx → s.getCtx k = newEncoder base len → streamBound len.toNat ≤ fuel →
    ((∀ i < len.toNat, s.srcByte (base.toNat + i) = 0#8) →
      (encodeLoop k fuel s).1 = List.replicate (len.toNat + 1) 1#8) ∧
    (len.toNat ≤ 254 → (∀ i < len.toNat, s.srcByte (base.toNat + i) ≠ 0#8) →
      (encodeLoop k fuel s).1 =
        BitVec.ofNat 8 (len.toNat + 1) :: s.viewBytes (newEncoder base len))

/-! ### The buffer-handle queue -/

/-- Rules R210 and R211, QAPPEND: its encoding, its check; `ok = 0` iff full, with no change; otherwise the slot at the write
position and `UC`, a `HOLD` unless the handle is empty, and nothing else. -/
def Obligations.QappendStores : Prop :=
  EncodedBy 0x3000000000000000#64 0xFF0000000000FFFF#64
    (fun w => .qappend (w.extractLsb' 24 32) (w.extractLsb' 16 8)) ∧
  ∀ (s : State) (h : Handle) (f : Byte),
    (Halted s → Refuses (.qappend h f) s .halted) ∧
    (¬ Halted s → s.uc.toNat = s.params.c →
      exec (.qappend h f) s = .next (answered s false 0#32 [])) ∧
    (¬ Halted s → s.uc.toNat ≠ s.params.c →
      exec (.qappend h f) s = .next
        { answered s true 0#32 (if h = emptyHandle then [] else [.hold h]) with
          qh := s.qh.set ((s.ri.toNat + s.uc.toNat) % s.params.c) h
          qf := s.qf.set ((s.ri.toNat + s.uc.toNat) % s.params.c) f
          uc := BitVec.ofNat 16 (s.uc.toNat + 1) })

/-- Rules R212 and R213, QPOP: its encoding, its check; `ok = 0` iff empty, with no change; otherwise the head slot takes
`EMPTY` and keeps its flag byte, `RI` and `UC` move, a `RELEASE` unless the handle was empty, and nothing else. -/
def Obligations.QpopReleases : Prop :=
  EncodedBy 0x3100000000000000#64 0xFFFFFFFFFFFFFFFF#64 (fun _ => .qpop) ∧
  ∀ s : State,
    (Halted s → Refuses .qpop s .halted) ∧
    (¬ Halted s → s.uc = 0#16 → exec .qpop s = .next (answered s false 0#32 [])) ∧
    (¬ Halted s → s.uc ≠ 0#16 →
      exec .qpop s = .next
        { answered s true 0#32
            (if s.handleIn s.ri.toNat = emptyHandle then [] else [.release (s.handleIn s.ri.toNat)]) with
          qh := s.qh.set s.ri.toNat emptyHandle
          ri := BitVec.ofNat 16 ((s.ri.toNat + 1) % s.params.c)
          uc := BitVec.ofNat 16 (s.uc.toNat - 1) })

/-- Rule R214, QREAD: its encoding, its check; the head's handle with `ok` iff the queue is not empty; `EMPTY` on an empty
queue, which the spec derives from rule R43; it is QPEEK with index 0; nothing else changes. -/
def Obligations.QreadReadsHead : Prop :=
  EncodedBy 0x3200000000000000#64 0xFFFFFFFFFFFFFFFF#64 (fun _ => .qread) ∧
  ∀ s : State,
    (Halted s → Refuses .qread s .halted) ∧
    (¬ Halted s →
      exec .qread s = .next (answered s (decide (0 < s.uc.toNat)) (s.handleIn s.ri.toNat) [])) ∧
    (¬ Halted s → s.Inv → s.uc = 0#16 → exec .qread s = .next (answered s false emptyHandle [])) ∧
    (s.Inv → exec .qread s = exec (.qpeek 0#16) s)

/-- Rule R216, QPEEK: its encoding, its check; the sentinel beyond capacity, the slot's handle below it with `ok` iff the
offset names an element, and `EMPTY` where it names none; nothing else changes. -/
def Obligations.QpeekReadsOffset : Prop :=
  EncodedBy 0x3300000000000000#64 0xFFFFFFFFFFFF0000#64 (fun w => .qpeek (w.extractLsb' 0 16)) ∧
  ∀ (s : State) (i : Half),
    (Halted s → Refuses (.qpeek i) s .halted) ∧
    (¬ Halted s → s.params.c ≤ i.toNat →
      exec (.qpeek i) s = .next (answered s false emptyHandle [])) ∧
    (¬ Halted s → i.toNat < s.params.c →
      exec (.qpeek i) s = .next (answered s (decide (i.toNat < s.uc.toNat))
        (s.handleIn ((s.ri.toNat + i.toNat) % s.params.c)) [])) ∧
    (¬ Halted s → s.Inv → s.uc.toNat ≤ i.toNat →
      exec (.qpeek i) s = .next (answered s false emptyHandle []))

/-- Rule R218, QREADF: its encoding, its check; the head's flag byte with `ok = 1`; on an empty queue `ok = 0` and some byte,
any (rule R213); nothing else changes. -/
def Obligations.QreadfReadsHead : Prop :=
  EncodedBy 0x3400000000000000#64 0xFFFFFFFFFFFFFFFF#64 (fun _ => .qreadf) ∧
  ∀ s : State,
    (Halted s → Refuses .qreadf s .halted) ∧
    (¬ Halted s → s.uc ≠ 0#16 →
      exec .qreadf s = .next (answered s true ((s.flagIn s.ri.toNat).setWidth 32) [])) ∧
    (¬ Halted s → s.uc = 0#16 →
      ∃ b : Byte, exec .qreadf s = .next (answered s false (b.setWidth 32) []))

/-- Rule R220, QPEEKF: its encoding, its check; 0 beyond capacity, the element's flag byte with `ok = 1`, and `ok = 0` with
some byte, any, where the offset names no element; nothing else changes. -/
def Obligations.QpeekfReadsOffset : Prop :=
  EncodedBy 0x3500000000000000#64 0xFFFFFFFFFFFF0000#64 (fun w => .qpeekf (w.extractLsb' 0 16)) ∧
  ∀ (s : State) (i : Half),
    (Halted s → Refuses (.qpeekf i) s .halted) ∧
    (¬ Halted s → s.params.c ≤ i.toNat → exec (.qpeekf i) s = .next (answered s false 0#32 [])) ∧
    (¬ Halted s → i.toNat < s.params.c → i.toNat < s.uc.toNat →
      exec (.qpeekf i) s = .next (answered s true
        ((s.flagIn ((s.ri.toNat + i.toNat) % s.params.c)).setWidth 32) [])) ∧
    (¬ Halted s → i.toNat < s.params.c → s.uc.toNat ≤ i.toNat →
      ∃ b : Byte, exec (.qpeekf i) s = .next (answered s false (b.setWidth 32) []))

/-- Rule R222, QSETF: its encoding, its check; on an empty queue `ok = 0` and no change; otherwise the head slot's flag byte,
and nothing else. -/
def Obligations.QsetfWritesHead : Prop :=
  EncodedBy 0x3600000000000000#64 0xFFFFFFFFFF00FFFF#64 (fun w => .qsetf (w.extractLsb' 16 8)) ∧
  ∀ (s : State) (f : Byte),
    (Halted s → Refuses (.qsetf f) s .halted) ∧
    (¬ Halted s → s.uc = 0#16 → exec (.qsetf f) s = .next (answered s false 0#32 [])) ∧
    (¬ Halted s → s.uc ≠ 0#16 →
      exec (.qsetf f) s = .next
        { answered s true 0#32 [] with qf := s.qf.set s.ri.toNat f })

/-- Rule R224, QRESET: its encoding, its check; every slot emptied, every flag byte zero, the cursors zero, and as a multiset
(U7) one `RELEASE` for each slot that held a handle; nothing else changes. -/
def Obligations.QresetEmpties : Prop :=
  EncodedBy 0x3700000000000000#64 0xFFFFFFFFFFFFFFFF#64 (fun _ => .qreset) ∧
  ∀ s : State,
    (Halted s → Refuses .qreset s .halted) ∧
    (¬ Halted s → ∃ events,
      exec .qreset s = .next { answered s true 0#32 events with
        qh := List.replicate s.qh.length emptyHandle
        qf := List.replicate s.qf.length 0#8
        ri := 0#16
        uc := 0#16 } ∧
      (∀ e ∈ events, ∃ h, h ≠ emptyHandle ∧ e = .release h) ∧
      ∀ h, h ≠ emptyHandle → events.count (.release h) = s.qh.count h)

/-- Rule R226, QSTAT: its encoding, its check; `UC` in bits 15 to 0, empty in bit 16, full in bit 17, 0 above; nothing else
changes. -/
def Obligations.QstatReportsFill : Prop :=
  EncodedBy 0x3800000000000000#64 0xFFFFFFFFFFFFFFFF#64 (fun _ => .qstat) ∧
  ∀ s : State,
    (Halted s → Refuses .qstat s .halted) ∧
    (¬ Halted s → ∃ data : Word, exec .qstat s = .next (answered s true data []) ∧
      data.extractLsb' 0 16 = s.uc ∧ data.getLsbD 16 = decide (s.uc.toNat = 0) ∧
      data.getLsbD 17 = decide (s.uc.toNat = s.params.c) ∧ data.extractLsb' 18 14 = 0#14)

/-- Rule R230 (c), (d), the queue refines a list of elements: QAPPEND adds at the end, QPOP drops the first, QSETF sets the
first one's flag byte, QRESET leaves none, and QPEEK and QPEEKF return the element at the offset. -/
def Obligations.QueueIsFifo : Prop :=
  ∀ s : State, s.Inv → ¬ Halted s →
    (∀ h f, s.uc.toNat < s.params.c →
      ∃ t, exec (.qappend h f) s = .next t ∧ t.elements = s.elements ++ [(h, f)]) ∧
    (0 < s.uc.toNat → ∃ t, exec .qpop s = .next t ∧ t.elements = s.elements.tail) ∧
    (∀ f, 0 < s.uc.toNat → ∃ t h f0 rest, exec (.qsetf f) s = .next t ∧
      s.elements = (h, f0) :: rest ∧ t.elements = (h, f) :: rest) ∧
    (∃ t, exec .qreset s = .next t ∧ t.elements = []) ∧
    ∀ i : Half, i.toNat < s.uc.toNat → ∃ e, s.elements[i.toNat]? = some e ∧
      exec (.qpeek i) s = .next (answered s true e.1 []) ∧
      exec (.qpeekf i) s = .next (answered s true (e.2.setWidth 32) [])

/-- Rule R230 (a), (b): on an empty queue exactly `C` appends succeed and the next returns false; after `C` pops, each
successful, the queue reports empty. -/
def Obligations.CapacityIsExact : Prop :=
  ∀ (s : State) (appends : List Instr), s.Inv → ¬ Halted s → s.uc = 0#16 →
    appends.length = s.params.c → (∀ i ∈ appends, ∃ h f, i = .qappend h f) →
    ∃ t u, runAll appends s = .next t ∧ (∀ r ∈ t.responses.take s.params.c, r.ok = true) ∧
      (∀ h f, exec (.qappend h f) t = .next (answered t false 0#32 [])) ∧
      runAll (List.replicate s.params.c .qpop) t = .next u ∧
      (∀ r ∈ u.responses.take s.params.c, r.ok = true) ∧ u.uc = 0#16 ∧
      exec .qstat u = .next (answered u true 0x00010000#32 [])
end

