-- ==== Sys2Proof/Laws/State.lean ====
section
/-! SUPPORT. One lemma per field per update of the state, each true by `rfl`. -/

namespace Sys2Proof.Machine

variable (s : State)

/-! ### `respondWith` -/

@[simp] theorem State.respondWith_params (ok : Bool) (d : Word) (es : List Event) :
    (s.respondWith ok d es).params = s.params := rfl
@[simp] theorem State.respondWith_arr (ok : Bool) (d : Word) (es : List Event) :
    (s.respondWith ok d es).arr = s.arr := rfl
@[simp] theorem State.respondWith_src (ok : Bool) (d : Word) (es : List Event) :
    (s.respondWith ok d es).src = s.src := rfl
@[simp] theorem State.respondWith_ctx (ok : Bool) (d : Word) (es : List Event) :
    (s.respondWith ok d es).ctx = s.ctx := rfl
@[simp] theorem State.respondWith_qh (ok : Bool) (d : Word) (es : List Event) :
    (s.respondWith ok d es).qh = s.qh := rfl
@[simp] theorem State.respondWith_qf (ok : Bool) (d : Word) (es : List Event) :
    (s.respondWith ok d es).qf = s.qf := rfl
@[simp] theorem State.respondWith_ri (ok : Bool) (d : Word) (es : List Event) :
    (s.respondWith ok d es).ri = s.ri := rfl
@[simp] theorem State.respondWith_uc (ok : Bool) (d : Word) (es : List Event) :
    (s.respondWith ok d es).uc = s.uc := rfl
@[simp] theorem State.respondWith_faultReg (ok : Bool) (d : Word) (es : List Event) :
    (s.respondWith ok d es).faultReg = s.faultReg := rfl
@[simp] theorem State.respondWith_inputs (ok : Bool) (d : Word) (es : List Event) :
    (s.respondWith ok d es).inputs = s.inputs := rfl
@[simp] theorem State.respondWith_responses (ok : Bool) (d : Word) (es : List Event) :
    (s.respondWith ok d es).responses = ⟨ok, .none, d, es⟩ :: s.responses := rfl
@[simp] theorem State.respondWith_epoch (ok : Bool) (d : Word) (es : List Event) :
    (s.respondWith ok d es).epoch = s.epoch := rfl
@[simp] theorem State.respondWith_draws (ok : Bool) (d : Word) (es : List Event) :
    (s.respondWith ok d es).draws = s.draws := rfl

/-! ### `respond` -/

@[simp] theorem State.respond_params (ok : Bool) (d : Word) :
    (s.respond ok d).params = s.params := rfl
@[simp] theorem State.respond_arr (ok : Bool) (d : Word) :
    (s.respond ok d).arr = s.arr := rfl
@[simp] theorem State.respond_src (ok : Bool) (d : Word) :
    (s.respond ok d).src = s.src := rfl
@[simp] theorem State.respond_ctx (ok : Bool) (d : Word) :
    (s.respond ok d).ctx = s.ctx := rfl
@[simp] theorem State.respond_qh (ok : Bool) (d : Word) :
    (s.respond ok d).qh = s.qh := rfl
@[simp] theorem State.respond_qf (ok : Bool) (d : Word) :
    (s.respond ok d).qf = s.qf := rfl
@[simp] theorem State.respond_ri (ok : Bool) (d : Word) :
    (s.respond ok d).ri = s.ri := rfl
@[simp] theorem State.respond_uc (ok : Bool) (d : Word) :
    (s.respond ok d).uc = s.uc := rfl
@[simp] theorem State.respond_faultReg (ok : Bool) (d : Word) :
    (s.respond ok d).faultReg = s.faultReg := rfl
@[simp] theorem State.respond_inputs (ok : Bool) (d : Word) :
    (s.respond ok d).inputs = s.inputs := rfl
@[simp] theorem State.respond_responses (ok : Bool) (d : Word) :
    (s.respond ok d).responses = ⟨ok, .none, d, []⟩ :: s.responses := rfl
@[simp] theorem State.respond_epoch (ok : Bool) (d : Word) :
    (s.respond ok d).epoch = s.epoch := rfl
@[simp] theorem State.respond_draws (ok : Bool) (d : Word) :
    (s.respond ok d).draws = s.draws := rfl

/-! ### `raise` -/

@[simp] theorem State.raise_params (e : ErrCode) :
    (s.raise e).params = s.params := rfl
@[simp] theorem State.raise_arr (e : ErrCode) :
    (s.raise e).arr = s.arr := rfl
@[simp] theorem State.raise_src (e : ErrCode) :
    (s.raise e).src = s.src := rfl
@[simp] theorem State.raise_ctx (e : ErrCode) :
    (s.raise e).ctx = s.ctx := rfl
@[simp] theorem State.raise_qh (e : ErrCode) :
    (s.raise e).qh = s.qh := rfl
@[simp] theorem State.raise_qf (e : ErrCode) :
    (s.raise e).qf = s.qf := rfl
@[simp] theorem State.raise_ri (e : ErrCode) :
    (s.raise e).ri = s.ri := rfl
@[simp] theorem State.raise_uc (e : ErrCode) :
    (s.raise e).uc = s.uc := rfl
@[simp] theorem State.raise_faultReg (e : ErrCode) :
    (s.raise e).faultReg = recordFault e s.faultReg := rfl
@[simp] theorem State.raise_inputs (e : ErrCode) :
    (s.raise e).inputs = s.inputs := rfl
@[simp] theorem State.raise_responses (e : ErrCode) :
    (s.raise e).responses = ⟨false, e, s.faultData e, []⟩ :: s.responses := rfl
@[simp] theorem State.raise_epoch (e : ErrCode) :
    (s.raise e).epoch = s.epoch := rfl
@[simp] theorem State.raise_draws (e : ErrCode) :
    (s.raise e).draws = if e = .finished then s.draws + 1 else s.draws := rfl

/-! ### `writeArr` -/

@[simp] theorem State.writeArr_params (a : Nat) (v : Byte) :
    (s.writeArr a v).params = s.params := rfl
@[simp] theorem State.writeArr_arr (a : Nat) (v : Byte) :
    (s.writeArr a v).arr = s.arr.put a v := rfl
@[simp] theorem State.writeArr_src (a : Nat) (v : Byte) :
    (s.writeArr a v).src = s.src := rfl
@[simp] theorem State.writeArr_ctx (a : Nat) (v : Byte) :
    (s.writeArr a v).ctx = s.ctx := rfl
@[simp] theorem State.writeArr_qh (a : Nat) (v : Byte) :
    (s.writeArr a v).qh = s.qh := rfl
@[simp] theorem State.writeArr_qf (a : Nat) (v : Byte) :
    (s.writeArr a v).qf = s.qf := rfl
@[simp] theorem State.writeArr_ri (a : Nat) (v : Byte) :
    (s.writeArr a v).ri = s.ri := rfl
@[simp] theorem State.writeArr_uc (a : Nat) (v : Byte) :
    (s.writeArr a v).uc = s.uc := rfl
@[simp] theorem State.writeArr_faultReg (a : Nat) (v : Byte) :
    (s.writeArr a v).faultReg = s.faultReg := rfl
@[simp] theorem State.writeArr_inputs (a : Nat) (v : Byte) :
    (s.writeArr a v).inputs = s.inputs := rfl
@[simp] theorem State.writeArr_responses (a : Nat) (v : Byte) :
    (s.writeArr a v).responses = s.responses := rfl
@[simp] theorem State.writeArr_epoch (a : Nat) (v : Byte) :
    (s.writeArr a v).epoch = s.epoch := rfl
@[simp] theorem State.writeArr_draws (a : Nat) (v : Byte) :
    (s.writeArr a v).draws = s.draws := rfl

/-! ### `writeSrc` -/

@[simp] theorem State.writeSrc_params (a : Nat) (v : Byte) :
    (s.writeSrc a v).params = s.params := rfl
@[simp] theorem State.writeSrc_arr (a : Nat) (v : Byte) :
    (s.writeSrc a v).arr = s.arr := rfl
@[simp] theorem State.writeSrc_src (a : Nat) (v : Byte) :
    (s.writeSrc a v).src = s.src.put a v := rfl
@[simp] theorem State.writeSrc_ctx (a : Nat) (v : Byte) :
    (s.writeSrc a v).ctx = s.ctx := rfl
@[simp] theorem State.writeSrc_qh (a : Nat) (v : Byte) :
    (s.writeSrc a v).qh = s.qh := rfl
@[simp] theorem State.writeSrc_qf (a : Nat) (v : Byte) :
    (s.writeSrc a v).qf = s.qf := rfl
@[simp] theorem State.writeSrc_ri (a : Nat) (v : Byte) :
    (s.writeSrc a v).ri = s.ri := rfl
@[simp] theorem State.writeSrc_uc (a : Nat) (v : Byte) :
    (s.writeSrc a v).uc = s.uc := rfl
@[simp] theorem State.writeSrc_faultReg (a : Nat) (v : Byte) :
    (s.writeSrc a v).faultReg = s.faultReg := rfl
@[simp] theorem State.writeSrc_inputs (a : Nat) (v : Byte) :
    (s.writeSrc a v).inputs = s.inputs := rfl
@[simp] theorem State.writeSrc_responses (a : Nat) (v : Byte) :
    (s.writeSrc a v).responses = s.responses := rfl
@[simp] theorem State.writeSrc_epoch (a : Nat) (v : Byte) :
    (s.writeSrc a v).epoch = s.epoch := rfl
@[simp] theorem State.writeSrc_draws (a : Nat) (v : Byte) :
    (s.writeSrc a v).draws = s.draws := rfl

/-! ### `setCtx` -/

@[simp] theorem State.setCtx_params (k : BitVec 4) (c : Context) :
    (s.setCtx k c).params = s.params := rfl
@[simp] theorem State.setCtx_arr (k : BitVec 4) (c : Context) :
    (s.setCtx k c).arr = s.arr := rfl
@[simp] theorem State.setCtx_src (k : BitVec 4) (c : Context) :
    (s.setCtx k c).src = s.src := rfl
@[simp] theorem State.setCtx_ctx (k : BitVec 4) (c : Context) :
    (s.setCtx k c).ctx = s.ctx.set k.toNat c := rfl
@[simp] theorem State.setCtx_qh (k : BitVec 4) (c : Context) :
    (s.setCtx k c).qh = s.qh := rfl
@[simp] theorem State.setCtx_qf (k : BitVec 4) (c : Context) :
    (s.setCtx k c).qf = s.qf := rfl
@[simp] theorem State.setCtx_ri (k : BitVec 4) (c : Context) :
    (s.setCtx k c).ri = s.ri := rfl
@[simp] theorem State.setCtx_uc (k : BitVec 4) (c : Context) :
    (s.setCtx k c).uc = s.uc := rfl
@[simp] theorem State.setCtx_faultReg (k : BitVec 4) (c : Context) :
    (s.setCtx k c).faultReg = s.faultReg := rfl
@[simp] theorem State.setCtx_inputs (k : BitVec 4) (c : Context) :
    (s.setCtx k c).inputs = s.inputs := rfl
@[simp] theorem State.setCtx_responses (k : BitVec 4) (c : Context) :
    (s.setCtx k c).responses = s.responses := rfl
@[simp] theorem State.setCtx_epoch (k : BitVec 4) (c : Context) :
    (s.setCtx k c).epoch = s.epoch := rfl
@[simp] theorem State.setCtx_draws (k : BitVec 4) (c : Context) :
    (s.setCtx k c).draws = s.draws := rfl

/-! ### `pushBack` -/

@[simp] theorem State.pushBack_params (h : Handle) (f : Byte) :
    (s.pushBack h f).params = s.params := rfl
@[simp] theorem State.pushBack_arr (h : Handle) (f : Byte) :
    (s.pushBack h f).arr = s.arr := rfl
@[simp] theorem State.pushBack_src (h : Handle) (f : Byte) :
    (s.pushBack h f).src = s.src := rfl
@[simp] theorem State.pushBack_ctx (h : Handle) (f : Byte) :
    (s.pushBack h f).ctx = s.ctx := rfl
@[simp] theorem State.pushBack_qh (h : Handle) (f : Byte) :
    (s.pushBack h f).qh = s.qh.set (s.slot s.uc.toNat) h := rfl
@[simp] theorem State.pushBack_qf (h : Handle) (f : Byte) :
    (s.pushBack h f).qf = s.qf.set (s.slot s.uc.toNat) f := rfl
@[simp] theorem State.pushBack_ri (h : Handle) (f : Byte) :
    (s.pushBack h f).ri = s.ri := rfl
@[simp] theorem State.pushBack_uc (h : Handle) (f : Byte) :
    (s.pushBack h f).uc = s.uc + 1#16 := rfl
@[simp] theorem State.pushBack_faultReg (h : Handle) (f : Byte) :
    (s.pushBack h f).faultReg = s.faultReg := rfl
@[simp] theorem State.pushBack_inputs (h : Handle) (f : Byte) :
    (s.pushBack h f).inputs = s.inputs := rfl
@[simp] theorem State.pushBack_responses (h : Handle) (f : Byte) :
    (s.pushBack h f).responses = s.responses := rfl
@[simp] theorem State.pushBack_epoch (h : Handle) (f : Byte) :
    (s.pushBack h f).epoch = s.epoch := rfl
@[simp] theorem State.pushBack_draws (h : Handle) (f : Byte) :
    (s.pushBack h f).draws = s.draws := rfl

/-! ### `popFront` -/

@[simp] theorem State.popFront_params :
    s.popFront.params = s.params := rfl
@[simp] theorem State.popFront_arr :
    s.popFront.arr = s.arr := rfl
@[simp] theorem State.popFront_src :
    s.popFront.src = s.src := rfl
@[simp] theorem State.popFront_ctx :
    s.popFront.ctx = s.ctx := rfl
@[simp] theorem State.popFront_qh :
    s.popFront.qh = s.qh.set s.ri.toNat emptyHandle := rfl
@[simp] theorem State.popFront_qf :
    s.popFront.qf = s.qf := rfl
@[simp] theorem State.popFront_ri :
    s.popFront.ri = BitVec.ofNat 16 (s.slot 1) := rfl
@[simp] theorem State.popFront_uc :
    s.popFront.uc = s.uc - 1#16 := rfl
@[simp] theorem State.popFront_faultReg :
    s.popFront.faultReg = s.faultReg := rfl
@[simp] theorem State.popFront_inputs :
    s.popFront.inputs = s.inputs := rfl
@[simp] theorem State.popFront_responses :
    s.popFront.responses = s.responses := rfl
@[simp] theorem State.popFront_epoch :
    s.popFront.epoch = s.epoch := rfl
@[simp] theorem State.popFront_draws :
    s.popFront.draws = s.draws := rfl

/-! ### `clearQueue` -/

@[simp] theorem State.clearQueue_params :
    s.clearQueue.params = s.params := rfl
@[simp] theorem State.clearQueue_arr :
    s.clearQueue.arr = s.arr := rfl
@[simp] theorem State.clearQueue_src :
    s.clearQueue.src = s.src := rfl
@[simp] theorem State.clearQueue_ctx :
    s.clearQueue.ctx = s.ctx := rfl
@[simp] theorem State.clearQueue_qh :
    s.clearQueue.qh = s.qh.map fun _ => emptyHandle := rfl
@[simp] theorem State.clearQueue_qf :
    s.clearQueue.qf = s.qf.map fun _ => 0#8 := rfl
@[simp] theorem State.clearQueue_ri :
    s.clearQueue.ri = 0#16 := rfl
@[simp] theorem State.clearQueue_uc :
    s.clearQueue.uc = 0#16 := rfl
@[simp] theorem State.clearQueue_faultReg :
    s.clearQueue.faultReg = s.faultReg := rfl
@[simp] theorem State.clearQueue_inputs :
    s.clearQueue.inputs = s.inputs := rfl
@[simp] theorem State.clearQueue_responses :
    s.clearQueue.responses = s.responses := rfl
@[simp] theorem State.clearQueue_epoch :
    s.clearQueue.epoch = s.epoch := rfl
@[simp] theorem State.clearQueue_draws :
    s.clearQueue.draws = s.draws := rfl

/-! ### `hardwareReset` -/

@[simp] theorem State.hardwareReset_params :
    s.hardwareReset.params = s.params := rfl
@[simp] theorem State.hardwareReset_arr :
    s.hardwareReset.arr = [] := rfl
@[simp] theorem State.hardwareReset_src :
    s.hardwareReset.src = [] := rfl
@[simp] theorem State.hardwareReset_ctx :
    s.hardwareReset.ctx = List.replicate s.params.nCtx Context.empty := rfl
@[simp] theorem State.hardwareReset_qh :
    s.hardwareReset.qh = List.replicate s.params.c emptyHandle := rfl
@[simp] theorem State.hardwareReset_qf :
    s.hardwareReset.qf = List.replicate s.params.c 0#8 := rfl
@[simp] theorem State.hardwareReset_ri :
    s.hardwareReset.ri = 0#16 := rfl
@[simp] theorem State.hardwareReset_uc :
    s.hardwareReset.uc = 0#16 := rfl
@[simp] theorem State.hardwareReset_faultReg :
    s.hardwareReset.faultReg = 0#8 := rfl
@[simp] theorem State.hardwareReset_inputs :
    s.hardwareReset.inputs = s.inputs := rfl
@[simp] theorem State.hardwareReset_responses :
    s.hardwareReset.responses = [] := rfl
@[simp] theorem State.hardwareReset_epoch :
    s.hardwareReset.epoch = s.epoch + 1 := rfl
@[simp] theorem State.hardwareReset_draws :
    s.hardwareReset.draws = s.draws := rfl

end Sys2Proof.Machine
end

