-- ==== Sys2Proof/Laws/Memory.lean ====
section
/-! SUPPORT. A byte memory: what a read after a write gives, and that a write keeps the canonical form. -/

namespace Sys2Proof.Machine

theorem Memory.get?_put_same (m : Memory) (k : Nat) (v : Byte) : (m.put k v).get? k = some v := by
  induction m with
  | nil => simp [put, get?]
  | cons e m ih =>
    obtain ⟨a, b⟩ := e
    simp only [put]
    split_ifs with h1 h2
    · simp [get?]
    · simp [get?]
    · have : a ≠ k := fun h => h2 h.symm
      simp [get?, this, ih]

theorem Memory.get?_put_other (m : Memory) {j k : Nat} (v : Byte) (h : j ≠ k) :
    (m.put k v).get? j = m.get? j := by
  induction m with
  | nil => simp [put, get?, h.symm]
  | cons e m ih =>
    obtain ⟨a, b⟩ := e
    simp only [put]
    split_ifs with h1 h2
    · simp [get?, h.symm]
    · subst h2
      simp [get?, h.symm]
    · simp [get?, ih]

/-- What a write does to every read. -/
theorem Memory.get?_put (m : Memory) (j k : Nat) (v : Byte) :
    (m.put k v).get? j = if j = k then some v else m.get? j := by
  split_ifs with h
  · exact h ▸ m.get?_put_same k v
  · exact m.get?_put_other v h

theorem Memory.wfFrom_put {lo size k : Nat} (m : Memory) (v : Byte)
    (hlo : lo ≤ k) (hk : k < size) (h : m.wfFrom lo size = true) :
    (m.put k v).wfFrom lo size = true := by
  induction m generalizing lo with
  | nil => simp [put, wfFrom, hlo, hk]
  | cons e m ih =>
    obtain ⟨a, b⟩ := e
    simp only [wfFrom, Bool.and_eq_true, decide_eq_true_eq] at h
    obtain ⟨⟨h1, h2⟩, h3⟩ := h
    simp only [put]
    split_ifs with h4 h5
    · simp only [wfFrom, Bool.and_eq_true, decide_eq_true_eq]
      exact ⟨⟨hlo, hk⟩, ⟨⟨h4, h2⟩, h3⟩⟩
    · subst h5
      simp only [wfFrom, Bool.and_eq_true, decide_eq_true_eq]
      exact ⟨⟨hlo, hk⟩, h3⟩
    · simp only [wfFrom, Bool.and_eq_true, decide_eq_true_eq]
      exact ⟨⟨h1, h2⟩, ih (by omega) h3⟩

/-- A write inside the memory keeps the canonical form. -/
theorem Memory.wf_put {size k : Nat} (m : Memory) (v : Byte) (hk : k < size)
    (h : m.wf size = true) : (m.put k v).wf size = true :=
  m.wfFrom_put v (Nat.zero_le k) hk h

/-- The memories at reset list nothing and have the canonical form. -/
theorem Memory.wf_nil (size : Nat) : Memory.wf size [] = true := rfl

/-! ### The two memories of the state -/

theorem State.arrByte_writeArr (s : State) (a k : Nat) (v : Byte) :
    (s.writeArr k v).arrByte a = if a = k then v else s.arrByte a := by
  simp only [arrByte, writeArr, Memory.get?_put]
  split_ifs <;> simp

theorem State.srcByte_writeSrc (s : State) (a k : Nat) (v : Byte) :
    (s.writeSrc k v).srcByte a = if a = k then v else s.srcByte a := by
  simp only [srcByte, writeSrc, Memory.get?_put]
  split_ifs <;> simp

theorem State.srcByte_writeArr (s : State) (a k : Nat) (v : Byte) :
    (s.writeArr k v).srcByte a = s.srcByte a := rfl

theorem State.arrByte_writeSrc (s : State) (a k : Nat) (v : Byte) :
    (s.writeSrc k v).arrByte a = s.arrByte a := rfl

end Sys2Proof.Machine
end

