-- ==== Sys2Proof/Laws/Ops.lean ====
section
/-! SUPPORT. The shared operations, each said once: the first fault of a list, running a command's checks, raising
a fault, a context's register, a bit of a byte. -/

namespace Sys2Proof.Machine

open Sys2Proof.Config

@[simp] theorem firstFault_nil : firstFault [] = none := rfl

@[simp] theorem firstFault_cons (b : Bool) (e : ErrCode) (rest : List (Bool × ErrCode)) :
    firstFault ((b, e) :: rest) = if b then some e else firstFault rest := rfl

/-- No fault is found exactly when no condition holds. -/
theorem firstFault_eq_none (checks : List (Bool × ErrCode)) :
    firstFault checks = none ↔ ∀ c ∈ checks, c.1 = false := by
  induction checks with
  | nil => simp
  | cons c rest ih =>
    obtain ⟨b, e⟩ := c
    cases b <;> simp [ih]

/-- A fault that is found is one of the list's. -/
theorem firstFault_mem {checks : List (Bool × ErrCode)} {e : ErrCode}
    (h : firstFault checks = some e) : (true, e) ∈ checks := by
  induction checks with
  | nil => simp at h
  | cons c rest ih =>
    obtain ⟨b, e'⟩ := c
    cases b
    · exact List.mem_cons_of_mem _ (ih (by simpa using h))
    · simp_all

/-- Everything running a command's checks can do: the command's effect, or one fault of its list. -/
theorem State.perform_cases (s effect : State) (checks : List (Bool × ErrCode)) :
    (s.perform checks effect = .next effect ∧ firstFault checks = none) ∨
    ∃ e, s.perform checks effect = .next (s.raise e) ∧ firstFault checks = some e := by
  unfold perform
  cases h : firstFault checks with
  | none => exact .inl ⟨rfl, rfl⟩
  | some e => exact .inr ⟨e, rfl, rfl⟩

theorem State.perform_of_none {s effect : State} {checks : List (Bool × ErrCode)}
    (h : firstFault checks = none) : s.perform checks effect = .next effect := by
  simp [perform, h]

theorem State.perform_of_some {s effect : State} {checks : List (Bool × ErrCode)} {e : ErrCode}
    (h : firstFault checks = some e) : s.perform checks effect = .next (s.raise e) := by
  simp [perform, h]

/-- A fault leaves every byte of both memories as it reads. -/
theorem State.arrByte_raise (s : State) (e : ErrCode) (a : Nat) :
    (s.raise e).arrByte a = s.arrByte a := rfl

theorem State.srcByte_raise (s : State) (e : ErrCode) (a : Nat) :
    (s.raise e).srcByte a = s.srcByte a := rfl

/-- A response leaves every byte of both memories as it reads. -/
theorem State.arrByte_respondWith (s : State) (ok : Bool) (d : Word) (es : List Event) (a : Nat) :
    (s.respondWith ok d es).arrByte a = s.arrByte a := rfl

theorem State.srcByte_respondWith (s : State) (ok : Bool) (d : Word) (es : List Event) (a : Nat) :
    (s.respondWith ok d es).srcByte a = s.srcByte a := rfl

/-- `FAULT` keeps every bit it has. -/
theorem recordFault_sticky (e : ErrCode) (f : Byte) {j : Nat} (h : f.getLsbD j = true) :
    (recordFault e f).getLsbD j = true := by
  simp [recordFault, h]

/-- A write to context `k` is read back, where `k` names a context. -/
theorem State.getCtx_setCtx_same (s : State) (k : BitVec 4) (c : Context)
    (h : k.toNat < s.ctx.length) : (s.setCtx k c).getCtx k = c := by
  simp [getCtx, setCtx, List.getD_eq_getElem?_getD, h]

/-- A write to context `k` changes no other context (rule R24). -/
theorem State.getCtx_setCtx_other (s : State) {j k : BitVec 4} (c : Context) (h : j ≠ k) :
    (s.setCtx k c).getCtx j = s.getCtx j := by
  have : k.toNat ≠ j.toNat := fun e => h (BitVec.eq_of_toNat_eq e.symm)
  simp [getCtx, setCtx, List.getD_eq_getElem?_getD, List.getElem?_set_ne this]

/-- A bit of a field put into a word. -/
theorem getLsbD_place {width : Nat} (lo : Nat) (v : BitVec width) (j : Nat) :
    (place lo v).getLsbD j = (decide (j < 64) && !decide (j < lo) && v.getLsbD (j - lo)) := by
  simp only [place, BitVec.getLsbD_shiftLeft, BitVec.getLsbD_setWidth]
  by_cases h : j < 64
  · have : j - lo < 64 := by omega
    simp [h, this]
  · simp [h]

/-- A bit of a field read from a word. -/
theorem getLsbD_fieldOf (lo width : Nat) (w : Cmd) (j : Nat) :
    (fieldOf lo width w).getLsbD j = (decide (j < width) && w.getLsbD (lo + j)) := by
  simp [fieldOf, BitVec.getLsbD_extractLsb']

end Sys2Proof.Machine
end

