-- ==== Sys2Proof/Laws/Encoder.lean ====
section
/-! SUPPORT. The Scan of the encoder: what its run counts, and the three outcomes (rules R162 and R164). -/

namespace Sys2Proof.Machine

open Sys2Proof.Config

theorem State.nonzeroRun_le (s : State) (addr limit : Nat) : s.nonzeroRun addr limit ≤ limit := by
  induction limit generalizing addr with
  | zero => exact Nat.le_refl 0
  | succ n ih =>
    simp only [nonzeroRun]
    split
    · exact Nat.zero_le _
    · exact Nat.succ_le_succ (ih (addr + 1))

/-- Every byte of the run is non-zero. -/
theorem State.nonzeroRun_nonzero (s : State) (addr limit : Nat) {i : Nat}
    (h : i < s.nonzeroRun addr limit) : s.srcByte (addr + i) ≠ 0#8 := by
  induction limit generalizing addr i with
  | zero => simp [nonzeroRun] at h
  | succ n ih =>
    simp only [nonzeroRun] at h
    split at h
    · exact absurd h (Nat.not_lt_zero i)
    · cases i with
      | zero => simpa using ‹¬ _›
      | succ i =>
        have := ih (addr + 1) (Nat.lt_of_succ_lt_succ h)
        rwa [show addr + (i + 1) = addr + 1 + i by omega]

/-- A run that stops before the limit stops on a zero byte. -/
theorem State.nonzeroRun_stop (s : State) (addr limit : Nat) (h : s.nonzeroRun addr limit < limit) :
    s.srcByte (addr + s.nonzeroRun addr limit) = 0#8 := by
  induction limit generalizing addr with
  | zero => exact absurd h (Nat.not_lt_zero _)
  | succ n ih =>
    simp only [nonzeroRun] at h ⊢
    split_ifs at h ⊢ with h0
    · simpa using h0
    · have := ih (addr + 1) (Nat.lt_of_succ_lt_succ h)
      rwa [show addr + (s.nonzeroRun (addr + 1) n + 1) = addr + 1 + s.nonzeroRun (addr + 1) n by omega]

/-- A Scan's run is within the cap and, where the cursor is inside the view, within the view. -/
theorem State.scanRun_le (s : State) (c : Context) :
    s.scanRun c ≤ scanCap ∧ s.scanRun c ≤ c.len.toNat - c.rc.toNat :=
  ⟨(s.nonzeroRun_le _ _).trans (Nat.min_le_left _ _),
    (s.nonzeroRun_le _ _).trans (Nat.min_le_right _ _)⟩

/-- Everything a Scan can do, by its run. -/
theorem scanOutcome_cases (c : Context) (run : Nat) :
    (run < scanCap ∧ c.rc.toNat + run < c.len.toNat ∧ scanOutcome c run =
      (BitVec.ofNat 8 (run + 1), { c with
        lc := c.rc, br := BitVec.ofNat 8 run, rc := BitVec.ofNat 16 (c.rc.toNat + run + 1), cz := true })) ∨
    (run = scanCap ∧ scanOutcome c run =
      (255#8, { c with
        lc := c.rc, br := BitVec.ofNat 8 run, rc := BitVec.ofNat 16 (c.rc.toNat + scanCap), cz := false })) ∨
    (run ≠ scanCap ∧ ¬ (run < scanCap ∧ c.rc.toNat + run < c.len.toNat) ∧ scanOutcome c run =
      (BitVec.ofNat 8 (run + 1), { c with
        lc := c.rc, br := BitVec.ofNat 8 run, rc := c.len, cz := false })) := by
  unfold scanOutcome
  by_cases h1 : run < scanCap ∧ c.rc.toNat + run < c.len.toNat
  · left
    simp [h1.1, h1.2]
  · by_cases h2 : run = scanCap
    · right; left
      simp [h2]
    · right; right
      simp [h1, h2]

/-- The termination rule (rule R165): it can only set `fin`, and does so exactly on its condition. -/
theorem terminate_cases (c : Context) :
    (terminate c = { c with fin := true } ∧ c.br = 0#8 ∧ c.rc = c.len ∧ c.cz = false) ∨
    (terminate c = c ∧ ¬ (c.br = 0#8 ∧ c.rc = c.len ∧ c.cz = false)) := by
  unfold terminate
  split_ifs with h
  · exact .inl ⟨rfl, h⟩
  · exact .inr ⟨rfl, h⟩

end Sys2Proof.Machine
end

