-- ==== Sys2Proof/Laws/PerInstr.lean ====
section
/-! SUPPORT. The statement made per instruction: a command's word selects the command's own row of the opcode map
(rule R98), so that no operand field of it overlaps a bit the row fixes. -/

namespace Sys2Proof.Laws.RowMatch

open Sys2Proof.Machine

/-- The word of the command, masked with its row's mask, is its row's match. -/
def Statement (i : Instr) : Prop := encode i &&& i.rowBits.mask = i.rowBits.pattern

theorem mrd (space : BitVec 4) (addr : Half) : Statement (.mrd space addr) := by
  apply BitVec.eq_of_getLsbD_eq
  intro j hj
  simp only [encode, Instr.rowBits, BitVec.getLsbD_and, BitVec.getLsbD_or, getLsbD_place]
  interval_cases j <;> simp

theorem mwr (space : BitVec 4) (addr : Half) (data : Byte) : Statement (.mwr space addr data) := by
  apply BitVec.eq_of_getLsbD_eq
  intro j hj
  simp only [encode, Instr.rowBits, BitVec.getLsbD_and, BitVec.getLsbD_or, getLsbD_place]
  interval_cases j <;> simp

theorem fstat : Statement .fstat := by
  show _ = _
  decide

theorem brd (start : Half) (stop : Half) : Statement (.brd start stop) := by
  apply BitVec.eq_of_getLsbD_eq
  intro j hj
  simp only [encode, Instr.rowBits, BitVec.getLsbD_and, BitVec.getLsbD_or, getLsbD_place]
  interval_cases j <;> simp

theorem bwr (start : Half) (stop : Half) (value : Half) : Statement (.bwr start stop value) := by
  apply BitVec.eq_of_getLsbD_eq
  intro j hj
  simp only [encode, Instr.rowBits, BitVec.getLsbD_and, BitVec.getLsbD_or, getLsbD_place]
  interval_cases j <;> simp

theorem bget (offset : Half) : Statement (.bget offset) := by
  apply BitVec.eq_of_getLsbD_eq
  intro j hj
  simp only [encode, Instr.rowBits, BitVec.getLsbD_and, BitVec.getLsbD_or, getLsbD_place]
  interval_cases j <;> simp

theorem bput (offset : Half) (bit : BitVec 1) : Statement (.bput offset bit) := by
  apply BitVec.eq_of_getLsbD_eq
  intro j hj
  simp only [encode, Instr.rowBits, BitVec.getLsbD_and, BitVec.getLsbD_or, getLsbD_place]
  interval_cases j <;> simp

theorem cinit (ctx : BitVec 4) (base : Half) (len : Half) : Statement (.cinit ctx base len) := by
  apply BitVec.eq_of_getLsbD_eq
  intro j hj
  simp only [encode, Instr.rowBits, BitVec.getLsbD_and, BitVec.getLsbD_or, getLsbD_place]
  interval_cases j <;> simp

theorem cfin (ctx : BitVec 4) : Statement (.cfin ctx) := by
  apply BitVec.eq_of_getLsbD_eq
  intro j hj
  simp only [encode, Instr.rowBits, BitVec.getLsbD_and, BitVec.getLsbD_or, getLsbD_place]
  interval_cases j <;> simp

theorem cnext (ctx : BitVec 4) : Statement (.cnext ctx) := by
  apply BitVec.eq_of_getLsbD_eq
  intro j hj
  simp only [encode, Instr.rowBits, BitVec.getLsbD_and, BitVec.getLsbD_or, getLsbD_place]
  interval_cases j <;> simp

theorem ccopy (ctx : BitVec 4) (ctx2 : BitVec 4) : Statement (.ccopy ctx ctx2) := by
  apply BitVec.eq_of_getLsbD_eq
  intro j hj
  simp only [encode, Instr.rowBits, BitVec.getLsbD_and, BitVec.getLsbD_or, getLsbD_place]
  interval_cases j <;> simp

theorem qappend (handle : Handle) (flags : Byte) : Statement (.qappend handle flags) := by
  apply BitVec.eq_of_getLsbD_eq
  intro j hj
  simp only [encode, Instr.rowBits, BitVec.getLsbD_and, BitVec.getLsbD_or, getLsbD_place]
  interval_cases j <;> simp

theorem qpop : Statement .qpop := by
  show _ = _
  decide

theorem qread : Statement .qread := by
  show _ = _
  decide

theorem qpeek (index : Half) : Statement (.qpeek index) := by
  apply BitVec.eq_of_getLsbD_eq
  intro j hj
  simp only [encode, Instr.rowBits, BitVec.getLsbD_and, BitVec.getLsbD_or, getLsbD_place]
  interval_cases j <;> simp

theorem qreadf : Statement .qreadf := by
  show _ = _
  decide

theorem qpeekf (index : Half) : Statement (.qpeekf index) := by
  apply BitVec.eq_of_getLsbD_eq
  intro j hj
  simp only [encode, Instr.rowBits, BitVec.getLsbD_and, BitVec.getLsbD_or, getLsbD_place]
  interval_cases j <;> simp

theorem qsetf (flags : Byte) : Statement (.qsetf flags) := by
  apply BitVec.eq_of_getLsbD_eq
  intro j hj
  simp only [encode, Instr.rowBits, BitVec.getLsbD_and, BitVec.getLsbD_or, getLsbD_place]
  interval_cases j <;> simp

theorem qreset : Statement .qreset := by
  show _ = _
  decide

theorem qstat : Statement .qstat := by
  show _ = _
  decide

end Sys2Proof.Laws.RowMatch
end

