-- ==== Sys2Proof/Laws/Step.lean ====
section
/-! SUPPORT. Everything one step can do. -/

namespace Sys2Proof.Machine

/-- The four things a step can do: wait, reset, run the decoded command, reject the word. -/
theorem step_cases (s : State) :
    (s.inputs = [] ∧ step s = .next s) ∨
    (∃ cut rest, s.inputs = .reset cut :: rest ∧
      step s = .next { s with inputs := rest }.hardwareReset) ∨
    (∃ w i rest, s.inputs = .command w :: rest ∧ decode w = .ok i ∧
      step s = exec i { s with inputs := rest }) ∨
    (∃ w e rest, s.inputs = .command w :: rest ∧ decode w = .error e ∧
      step s = { s with inputs := rest }.rejectWord) := by
  unfold step State.takeInput
  cases hin : s.inputs with
  | nil => exact .inl ⟨rfl, rfl⟩
  | cons x rest =>
    cases x with
    | reset cut => exact .inr (.inl ⟨cut, rest, rfl, rfl⟩)
    | command w =>
      cases hd : decode w with
      | ok i => exact .inr (.inr (.inl ⟨w, i, rest, rfl, hd, by simp [hd]⟩))
      | error e => exact .inr (.inr (.inr ⟨w, e, rest, rfl, hd, by simp [hd]⟩))

/-- A rejected word is a fault: `E_HALTED` when halted, `E_ILLEGAL` otherwise. -/
theorem State.rejectWord_eq (s : State) :
    s.rejectWord = .next (s.raise (if s.halted then .halted else .illegal)) := by
  cases h : s.halted <;> simp [rejectWord, perform, h]

end Sys2Proof.Machine
end

