-- ==== Sys2Proof/Tests/Slice0.lean ====
section
/-! SUPPORT. Tests: the checks of `WellFormed`, decoding, one or two steps per command with results from spec/ (its file
95_test_vectors.md, or the example of the command's rule), and for every statement with hypotheses a state and operands
that meet them, clause by clause. -/

namespace Sys2Proof.Tests

open Sys2Proof.Machine Sys2Proof.Claims Sys2Proof.Config

/-! ### States -/

/-- The state a result gives, where it gives one. -/
def outcome (r : Result) : State :=
  match r with
  | .next t => t
  | .fault _ => State.reset
  | .refused _ => State.reset

/-- The response a command gives. -/
def answer (i : Instr) (s : State) : Option Response := (outcome (exec i s)).responses.head?

/-- `ARR[0..3] = DE AD BE EF`, the last byte 00; `SRC[0..5] = 0A 0B 0C 00 0D 0E` (V15, V22). -/
def loaded : State := { State.reset with
  arr := [(0, 0xDE#8), (1, 0xAD#8), (2, 0xBE#8), (3, 0xEF#8), (63, 0#8)]
  src := [(0, 0x0A#8), (1, 0x0B#8), (2, 0x0C#8), (3, 0#8), (4, 0x0D#8), (5, 0x0E#8), (1023, 0xEE#8)] }

/-- Halted by a malformed descriptor. -/
def stopped : State := { loaded with faultReg := 0x05#8 }

/-- `loaded` with context 0 as given. -/
def withCtx (c : Context) : State := { loaded with ctx := [c, Context.empty, Context.empty, Context.empty] }

/-- A new encoder over `SRC[0..5]`. -/
def fresh : State := withCtx ⟨true, 0#16, 6#16, 0#16, 0#8, 0#16, false, false⟩

/-- The same encoder after its first CNEXT (V22). -/
def midBlock : State := withCtx ⟨true, 0#16, 6#16, 4#16, 3#8, 0#16, true, false⟩

/-- The same encoder before the last CNEXT (V22). -/
def lastLiteral : State := withCtx ⟨true, 0#16, 6#16, 6#16, 1#8, 5#16, false, false⟩

/-- The same encoder finished (V22). -/
def finished : State := withCtx ⟨true, 0#16, 6#16, 6#16, 0#8, 6#16, false, true⟩

/-- A full queue after wrap-around (V30, step 29). -/
def fullQueue : State := { loaded with
  qh := [0xA0000005#32, 0xA0000006#32, 0xA0000003#32, 0xA0000004#32]
  qf := [0x55#8, 0x66#8, 0x33#8, 0x44#8], ri := 2#16, uc := 4#16 }

/-- A queue with one element in slot 3 and a stale flag byte in slot 2. -/
def oneElement : State := { loaded with
  qh := [0#32, 0#32, 0#32, 0xA0000004#32], qf := [0#8, 0#8, 0x33#8, 0x44#8], ri := 3#16, uc := 1#16 }

/-! ### Well-formedness: an ill-formed term for each check -/

theorem test_wf_reserved_space :
    (Instr.mrd 2#4 0#16).wellFormed = false ∧ (Instr.mwr 15#4 0#16 0#8).wellFormed = false ∧
      (Instr.mrd 1#4 0#16).wellFormed = true := by decide

theorem test_wf_malformed_range :
    (Instr.brd 9#16 9#16).wellFormed = false ∧ (Instr.brd 50#16 40#16).wellFormed = false ∧
      (Instr.brd 0#16 16#16).wellFormed = false ∧ (Instr.bwr 3#16 3#16 1#16).wellFormed = false ∧
      (Instr.bwr 0#16 15#16 1#16).wellFormed = true ∧ (Instr.brd 8#16 9#16).wellFormed = true := by decide

/-! ### Decoding: a word of the spec for every command, and rejections by name -/

theorem test_decode_sys :
    (decode 0x011003FF00000000#64).toOption = some (.mrd 1#4 1023#16) ∧
    (decode 0x021003FFA5000000#64).toOption = some (.mwr 1#4 0x3FF#16 0xA5#8) ∧
    (decode 0x0300000000000000#64).toOption = some .fstat := by decide

theorem test_decode_brc :
    (decode 0x1000050012000000#64).toOption = some (.brd 5#16 18#16) ∧
    (decode 0x11000500123FFF00#64).toOption = some (.bwr 5#16 18#16 0x3FFF#16) ∧
    (decode 0x1200070000000000#64).toOption = some (.bget 7#16) ∧
    (decode 0x13000D0000000100#64).toOption = some (.bput 13#16 1#1) := by decide

theorem test_decode_cse :
    (decode 0x2030012300450000#64).toOption = some (.cinit 3#4 0x123#16 0x45#16) ∧
    (decode 0x2120000000000000#64).toOption = some (.cfin 2#4) ∧
    (decode 0x2290000000000000#64).toOption = some (.cnext 9#4) ∧
    (decode 0x2321000000000000#64).toOption = some (.ccopy 2#4 1#4) := by decide

theorem test_decode_bhq :
    (decode 0x30A0000001110000#64).toOption = some (.qappend 0xA0000001#32 0x11#8) ∧
    (decode 0x3100000000000000#64).toOption = some .qpop ∧
    (decode 0x3200000000000000#64).toOption = some .qread ∧
    (decode 0x330000000000FFFF#64).toOption = some (.qpeek 65535#16) ∧
    (decode 0x3400000000000000#64).toOption = some .qreadf ∧
    (decode 0x3500000000000003#64).toOption = some (.qpeekf 3#16) ∧
    (decode 0x3600000000990000#64).toOption = some (.qsetf 0x99#8) ∧
    (decode 0x3700000000000000#64).toOption = some .qreset ∧
    (decode 0x3800000000000000#64).toOption = some .qstat := by decide

/-- The reason a word is rejected for, if it is. -/
def rejection (w : Cmd) : Option DecodeError :=
  match decode w with
  | .ok _ => none
  | .error e => some e

/-- V50: reserved codes and must-be-zero bits. -/
theorem test_decode_rejects :
    rejection 0#64 = some .reservedFunction ∧ rejection 0xFFFFFFFFFFFFFFFF#64 = some .reservedUnit ∧
    rejection 0x3900000000000000#64 = some .reservedFunction ∧
    rejection 0x0101000100000000#64 = some .mustBeZero ∧
    rejection 0x13000D0000000300#64 = some .mustBeZero ∧
    rejection 0x0300000000000001#64 = some .mustBeZero := by decide

/-- V51: the fields of formats M, B and C are put where the word has them. -/
theorem test_encode_fields :
    encode (.mwr 1#4 0x3FF#16 0xA5#8) = 0x021003FFA5000000#64 ∧
    encode (.bwr 0x1F0#16 0x1FF#16 0xBEEF#16) = 0x1101F001FFBEEF00#64 ∧
    encode (.ccopy 2#4 3#4) = 0x2323000000000000#64 := by decide

theorem test_table_word :
    decodeTableWord 64 0x3500000000000003 = some (.qpeekf 3#16) ∧
      decodeTableWord 64 0x4000000000000000 = none := by decide

theorem test_serialised :
    (wordOfBytes [0x13#8, 0#8, 0x0D#8, 0#8, 0#8, 0#8, 1#8, 0#8]).toOption = some 0x13000D0000000100#64 ∧
      (wordOfBytes [0x13#8]).toOption = none := by decide

/-! ### The assembler (R112, R113) -/

theorem test_assemble_lines :
    assembleLine ['B', 'R', 'D', ' ', '5', ',', ' ', '0', 'x', '1', '2', ' ', ';', ' ', 'x'] =
      some [.brd 5#16 18#16] ∧
    assembleLine ['B', 'R', 'D', ' ', '9', ',', '9'] = none ∧
    assembleLine ['C', 'F', 'I', 'N', ' ', '1', '6'] = none := by decide

theorem test_assemble_fill :
    assembleLine ['M', 'F', 'I', 'L', 'L', ' ', 'S', 'R', 'C', ',', '3', ',', '1', ',', '2'] =
      some [.mwr 1#4 3#16 1#8, .mwr 1#4 4#16 2#8] := by decide

/-! ### SYS -/

/-- V54. -/
theorem test_mrd :
    answer (.mrd 1#4 1023#16) loaded = some ⟨true, .none, 0xEE#32, []⟩ ∧
      answer (.mrd 0#4 64#16) loaded = some ⟨false, .range, 0#32, []⟩ := by decide

/-- V50: the reserved space is illegal before any range check. -/
theorem test_mrd_reserved_space :
    answer (.mrd 2#4 0xFFFF#16) loaded = some ⟨false, .illegal, 0#32, []⟩ := by decide

/-- V54: the two memories are apart. -/
theorem test_mwr :
    (outcome (exec (.mwr 1#4 3#16 0x77#8) loaded)).srcByte 3 = 0x77#8 ∧
      (outcome (exec (.mwr 1#4 3#16 0x77#8) loaded)).arrByte 3 = 0xEF#8 := by decide

theorem test_mwr_new_byte :
    (outcome (exec (.mwr 0#4 2#16 0x55#8) State.reset)).arr = [(2, 0x55#8)] := by decide

/-- P5. -/
theorem test_fstat_when_halted : answer .fstat stopped = some ⟨true, .none, 0x05#32, []⟩ := by decide

/-! ### BRC -/

/-- V15: three bytes, and two bytes at the widest. -/
theorem test_brd :
    answer (.brd 5#16 18#16) loaded = some ⟨true, .none, 0x356D#32, []⟩ ∧
      answer (.brd 0#16 15#16) loaded = some ⟨true, .none, 0xDEAD#32, []⟩ ∧
      answer (.brd 7#16 8#16) loaded = some ⟨true, .none, 1#32, []⟩ := by decide

/-- V52: malformed goes before out of range. -/
theorem test_brd_malformed :
    answer (.brd 600#16 600#16) loaded = some ⟨false, .desc, 0#32, []⟩ ∧
      (outcome (exec (.brd 600#16 600#16) loaded)).faultReg = 0x05#8 := by decide

/-- V9: `BWR 5, 18, 0x1234` on `DE AD BE EF` leaves `DA 46 9E EF`. -/
theorem test_bwr_three_bytes :
    (outcome (exec (.bwr 5#16 18#16 0x1234#16) loaded)).arr =
      [(0, 0xDA#8), (1, 0x46#8), (2, 0x9E#8), (3, 0xEF#8), (63, 0#8)] := by decide

/-- V16 on other old bytes, by hand: `BWR 7, 8, 2` on `DE AD` sets bit 7 and clears bit 8: `DF 2D`. -/
theorem test_bwr_two_bytes :
    (outcome (exec (.bwr 7#16 8#16 2#16) loaded)).arr =
      [(0, 0xDF#8), (1, 0x2D#8), (2, 0xBE#8), (3, 0xEF#8), (63, 0#8)] := by decide

/-- V15. -/
theorem test_bget :
    answer (.bget 2#16) loaded = some ⟨true, .none, 0#32, []⟩ ∧
      answer (.bget 13#16) loaded = some ⟨true, .none, 1#32, []⟩ := by decide

/-- V17: the last bit of `ARR`, and the first beyond it. -/
theorem test_bput :
    (outcome (exec (.bput 511#16 1#1) loaded)).arrByte 63 = 1#8 ∧
      answer (.bput 512#16 1#1) loaded = some ⟨false, .range, 0#32, []⟩ := by decide

/-! ### CSE -/

/-- V24: a view that fits exactly, and one that does not. -/
theorem test_cinit :
    answer (.cinit 0#4 1000#16 24#16) loaded = some ⟨true, .none, 0#32, []⟩ ∧
      answer (.cinit 0#4 1#16 1024#16) loaded = some ⟨false, .range, 0#32, []⟩ := by decide

/-- V52: the context goes before the range. -/
theorem test_cinit_no_context :
    answer (.cinit 9#4 2000#16 2000#16) loaded = some ⟨false, .ctx, 0#32, []⟩ := by decide

/-- V22 and V24. -/
theorem test_cfin :
    answer (.cfin 0#4) finished = some ⟨true, .none, 1#32, []⟩ ∧
      answer (.cfin 1#4) finished = some ⟨false, .ctx, 0#32, []⟩ := by decide

/-- V22, steps 3 and 9. -/
theorem test_cnext_scan :
    answer (.cnext 0#4) fresh = some ⟨true, .none, 4#32, []⟩ ∧
      (outcome (exec (.cnext 0#4) fresh)).getCtx 0#4 =
        ⟨true, 0#16, 6#16, 4#16, 3#8, 0#16, true, false⟩ := by decide

theorem test_cnext_last_literal :
    answer (.cnext 0#4) lastLiteral = some ⟨true, .none, 0x0E#32, []⟩ ∧
      (outcome (exec (.cnext 0#4) lastLiteral)).getCtx 0#4 =
        ⟨true, 0#16, 6#16, 6#16, 0#8, 6#16, false, true⟩ := by decide

/-- V24: a copy, and a copy of no encoder. -/
theorem test_ccopy :
    (outcome (exec (.ccopy 3#4 0#4) midBlock)).getCtx 3#4 = midBlock.getCtx 0#4 ∧
      answer (.ccopy 2#4 1#4) midBlock = some ⟨false, .ctx, 0#32, []⟩ := by decide

/-- V5: the whole stream, and its decoding. -/
theorem test_stream :
    (encodeLoop 0#4 8 fresh).1 = [4#8, 0x0A#8, 0x0B#8, 0x0C#8, 3#8, 0x0D#8, 0x0E#8] ∧
      cobsDecode [4#8, 0x0A#8, 0x0B#8, 0x0C#8, 3#8, 0x0D#8, 0x0E#8] =
        [0x0A#8, 0x0B#8, 0x0C#8, 0#8, 0x0D#8, 0x0E#8] := by decide

/-! ### BHQ -/

/-- V30: full, and the wrapped write position. -/
theorem test_qappend :
    answer (.qappend 7#32 1#8) fullQueue = some ⟨false, .none, 0#32, []⟩ ∧
      (outcome (exec (.qappend 7#32 1#8) oneElement)).qh = [7#32, 0#32, 0#32, 0xA0000004#32] := by decide

/-- V32: the empty handle is an element and has no event. -/
theorem test_qappend_empty_handle :
    answer (.qappend 0#32 0x77#8) oneElement = some ⟨true, .none, 0#32, []⟩ ∧
      (outcome (exec (.qappend 0#32 0x77#8) oneElement)).uc = 2#16 := by decide

/-- V30, steps 28 and 35. -/
theorem test_qpop :
    answer .qpop fullQueue = some ⟨true, .none, 0#32, [.release 0xA0000003#32]⟩ ∧
      (outcome (exec .qpop oneElement)).ri = 0#16 := by decide

theorem test_qread :
    answer .qread fullQueue = some ⟨true, .none, 0xA0000003#32, []⟩ ∧
      answer .qread loaded = some ⟨false, .none, 0#32, []⟩ := by decide

/-- R216's example. -/
theorem test_qpeek :
    answer (.qpeek 2#16) fullQueue = some ⟨true, .none, 0xA0000005#32, []⟩ ∧
      answer (.qpeek 4#16) fullQueue = some ⟨false, .none, 0#32, []⟩ := by decide

theorem test_qreadf : answer .qreadf fullQueue = some ⟨true, .none, 0x33#32, []⟩ := by decide

/-- R220's example; a stale flag byte is a free value, so only `ok` is tested there. -/
theorem test_qpeekf :
    answer (.qpeekf 3#16) fullQueue = some ⟨true, .none, 0x66#32, []⟩ ∧
      answer (.qpeekf 4#16) fullQueue = some ⟨false, .none, 0#32, []⟩ ∧
      (answer (.qpeekf 3#16) oneElement).map (·.ok) = some false := by decide

theorem test_qsetf :
    (outcome (exec (.qsetf 0x99#8) oneElement)).qf = [0#8, 0#8, 0x33#8, 0x99#8] ∧
      answer (.qsetf 0x99#8) loaded = some ⟨false, .none, 0#32, []⟩ := by decide

/-- R224's example, P4. -/
theorem test_qreset :
    answer .qreset fullQueue = some ⟨true, .none, 0#32,
      [.release 0xA0000005#32, .release 0xA0000006#32, .release 0xA0000003#32, .release 0xA0000004#32]⟩ ∧
      (outcome (exec .qreset fullQueue)).qf = [0#8, 0#8, 0#8, 0#8] := by decide

/-- R226's examples. -/
theorem test_qstat :
    answer .qstat loaded = some ⟨true, .none, 0x00010000#32, []⟩ ∧
      answer .qstat fullQueue = some ⟨true, .none, 0x00020004#32, []⟩ := by decide

/-! ### The step -/

/-- V50 and P5: an illegal word, and the all-zero word after a halt. -/
theorem test_step_illegal :
    (outcome (step (loaded.withFetchWord 64 0x4000000000000000))).faultReg = 0x02#8 ∧
      (outcome (step (stopped.withFetchWord 64 0))).responses.head? =
        some ⟨false, .halted, 0#32, []⟩ := by decide

/-- V53: the packed response of `BRD 5, 18` and of a command when halted. -/
theorem test_packed :
    (⟨true, .none, 0x356D#32, []⟩ : Response).packed = 0x100000356D#37 ∧
      (⟨false, .halted, 0#32, []⟩ : Response).packed = 0x0600000000#37 := by decide

/-! ### Witnesses: for each statement with hypotheses, a state and operands that meet them

The states below are the ones above; `loaded` is not halted and its memories, contexts and queue are those of a run. -/

/-- Rule R23 (i) to (v) as a check. -/
def encoderOk (nS : Nat) (c : Context) : Bool :=
  decide (c.base.toNat + c.len.toNat ≤ nS) && decide (c.rc.toNat ≤ c.len.toNat) &&
    decide (c.br.toNat ≤ 254) && decide (c.lc.toNat + c.br.toNat + c.cz.toNat = c.rc.toNat) &&
    decide (c.fin = true → c.br = 0#8 ∧ c.rc = c.len ∧ c.cz = false)

/-- The invariant as a check. -/
def invOk (s : State) : Bool :=
  decide s.params.InRange && s.arr.wf s.params.nA && s.src.wf s.params.nS &&
    decide (s.ctx.length = s.params.nCtx) && s.ctx.all (fun c => !c.valid || encoderOk s.params.nS c) &&
    decide (s.qh.length = s.params.c) && decide (s.qf.length = s.params.c) &&
    decide (s.ri.toNat < s.params.c) && decide (s.uc.toNat ≤ s.params.c) &&
    decide (∀ j < s.params.c, ¬ s.Occupied j → s.handleIn j = emptyHandle) &&
    decide (s.faultReg.getLsbD 0 = s.faultReg.getLsbD 2) &&
    decide (s.faultReg.getLsbD 6 = false ∧ s.faultReg.getLsbD 7 = false)

theorem encoderOk_sound {nS : Nat} {c : Context} (h : encoderOk nS c = true) : c.Inv nS := by
  simp only [encoderOk, Bool.and_eq_true, decide_eq_true_eq] at h
  obtain ⟨⟨⟨⟨h1, h2⟩, h3⟩, h4⟩, h5⟩ := h
  exact ⟨h1, h2, h3, h4, h5⟩

theorem invOk_sound {s : State} (h : invOk s = true) : s.Inv := by
  simp only [invOk, Bool.and_eq_true, decide_eq_true_eq] at h
  obtain ⟨⟨⟨⟨⟨⟨⟨⟨⟨⟨⟨h1, h2⟩, h3⟩, h4⟩, h5⟩, h6⟩, h7⟩, h8⟩, h9⟩, h10⟩, h11⟩, h12⟩ := h
  refine ⟨h1, h2, h3, h4, fun c hc hv => ?_, h6, h7, h8, h9, h10, h11, h12⟩
  have := List.all_eq_true.mp h5 c hc
  simp only [hv, Bool.not_true, Bool.false_or] at this
  exact encoderOk_sound this

theorem loaded_inv : loaded.Inv := invOk_sound (by decide)
theorem fresh_inv : fresh.Inv := invOk_sound (by decide)
theorem midBlock_inv : midBlock.Inv := invOk_sound (by decide)
theorem finished_inv : finished.Inv := invOk_sound (by decide)
theorem stopped_inv : stopped.Inv := invOk_sound (by decide)
theorem fullQueue_inv : fullQueue.Inv := invOk_sound (by decide)
theorem oneElement_inv : oneElement.Inv := invOk_sound (by decide)

/-- `s` with a word presented. -/
def given (s : State) (w : Cmd) : State := { s with inputs := [.command w] }

theorem witness_EncodeOfDecode : decode 0x3500000000000003#64 = .ok (.qpeekf 3#16) := by
  rfl

/-- A word that selects a row, and one that selects none. -/
theorem witness_OpcodeRowsDisjoint :
    (∃ r ∈ opcodeMap, 0x3100000000000000#64 &&& r.bits.mask = r.bits.pattern) ∧
      ∀ r ∈ opcodeMap, 0x3100000000000001#64 &&& r.bits.mask ≠ r.bits.pattern := by
  constructor <;> decide

/-- QPOP's word with a must-be-zero bit is no command's encoding: the encoding of a command selects the command's row. -/
theorem witness_IllegalWordsReported :
    (given loaded 0x3100000000000001#64).inputs = [.command 0x3100000000000001#64] ∧
      ¬ Halted loaded ∧ Halted stopped ∧
      (0x0120000000000000#64 = encode (.mrd 2#4 0#16) ∧ 0x02F0FFFFFF000000#64 = encode (.mwr 15#4 0xFFFF#16 0xFF#8)) ∧
      ∀ i : Instr, encode i ≠ 0x3100000000000001#64 := by
  refine ⟨rfl, by decide, by decide, by decide, fun i h => ?_⟩
  have hrow : encode i &&& i.rowBits.mask = i.rowBits.pattern := by
    cases i
    · exact Laws.RowMatch.mrd _ _
    · exact Laws.RowMatch.mwr _ _ _
    · exact Laws.RowMatch.fstat
    · exact Laws.RowMatch.brd _ _
    · exact Laws.RowMatch.bwr _ _ _
    · exact Laws.RowMatch.bget _
    · exact Laws.RowMatch.bput _ _
    · exact Laws.RowMatch.cinit _ _ _
    · exact Laws.RowMatch.cfin _
    · exact Laws.RowMatch.cnext _
    · exact Laws.RowMatch.ccopy _ _
    · exact Laws.RowMatch.qappend _ _
    · exact Laws.RowMatch.qpop
    · exact Laws.RowMatch.qread
    · exact Laws.RowMatch.qpeek _
    · exact Laws.RowMatch.qreadf
    · exact Laws.RowMatch.qpeekf _
    · exact Laws.RowMatch.qsetf _
    · exact Laws.RowMatch.qreset
    · exact Laws.RowMatch.qstat
  rw [h] at hrow
  cases i <;> exact absurd hrow (by simp only [Instr.rowBits]; decide)

/-- The first reserved unit, and the first reserved function codes of each unit. -/
theorem witness_ReservedCodesIllegal :
    4 ≤ (BitVec.extractLsb' 60 4 0x4000000000000000#64).toNat ∧
    BitVec.extractLsb' 56 4 0x0000000000000000#64 = 0#4 ∧
    4 ≤ (BitVec.extractLsb' 56 4 0x0400000000000000#64).toNat ∧
    (BitVec.extractLsb' 60 4 0x1400000000000000#64 = 1#4 ∧
      4 ≤ (BitVec.extractLsb' 56 4 0x1400000000000000#64).toNat) ∧
    (BitVec.extractLsb' 60 4 0x2400000000000000#64 = 2#4 ∧
      4 ≤ (BitVec.extractLsb' 56 4 0x2400000000000000#64).toNat) ∧
    (BitVec.extractLsb' 60 4 0x3900000000000000#64 = 3#4 ∧
      9 ≤ (BitVec.extractLsb' 56 4 0x3900000000000000#64).toNat) ∧
    rejection 0x3900000000000000#64 = some .reservedFunction ∧ ¬ Halted loaded := by decide

theorem witness_AssembledNeverMalformed :
    assembleLine ['B', 'W', 'R', ' ', '0', ' ', '1', '5', ' ', '7'] = some [.bwr 0#16 15#16 7#16] ∧
      answer (.bwr 0#16 15#16 7#16) loaded = some ⟨true, .none, 0#32, []⟩ := by decide

theorem witness_StepRunsDecodedCommand :
    (given loaded 0x3100000000000000#64).inputs = [.command 0x3100000000000000#64] ∧
      decode 0x3100000000000000#64 = .ok .qpop := ⟨rfl, rfl⟩

theorem witness_HardwareResetOrWait :
    loaded.inputs = [] ∧
      { loaded with inputs := [.reset (some 0x3100000000000000#64)] }.inputs =
        [.reset (some 0x3100000000000000#64)] := ⟨rfl, rfl⟩

/-- The least and the greatest parameters of rule R4. -/
theorem witness_ResetMeetsInvariants :
    Params.InRange ⟨1, 1, 2, 1⟩ ∧ Params.InRange ⟨8192, 65536, 16, 65535⟩ := by decide

theorem witness_StepKeepsInvariant :
    (given fullQueue 0x3100000000000000#64).Inv ∧
      ∃ t, step (given fullQueue 0x3100000000000000#64) = .next t := ⟨invOk_sound (by decide), _, rfl⟩

/-- A full queue right after its four appends (V13). -/
def appended : State :=
  outcome (runAll [.qappend 1#32 0#8, .qappend 1#32 0#8, .qappend 0#32 0#8, .qappend 2#32 0#8] State.reset)

theorem witness_StepKeepsEventLaw :
    appended.Inv ∧ appended.EventLaw ∧ ∃ t, step (given appended 0x3100000000000000#64) = .next t := by
  refine ⟨invOk_sound (by decide), fun h hne => ?_, _, rfl⟩
  have hr : appended.responses.flatMap (·.events) = [.hold 2#32, .hold 1#32, .hold 1#32] := by decide
  have hq : appended.qh = [1#32, 1#32, 0#32, 2#32] := by decide
  have h0 : ¬ (0#32 = h) := fun e => hne e.symm
  simp [holdsOf, releasesOf, hr, hq, List.count_cons, h0]
  omega

theorem witness_StepKeepsLiteralsNonzero :
    midBlock.Inv ∧ midBlock.LiteralsNonzero ∧
      (∀ w i rest, (given midBlock 0x2200000000000000#64).inputs = .command w :: rest →
        decode w = .ok i → ¬ WritesActiveView midBlock i) ∧
      ∃ t, step (given midBlock 0x2200000000000000#64) = .next t := by
  refine ⟨midBlock_inv, ?_, ?_, _, rfl⟩
  · unfold State.LiteralsNonzero
    decide
  · intro w i rest h hd
    simp only [given, List.cons.injEq, HostInput.command.injEq] at h
    obtain ⟨rfl, -⟩ := h
    have : i = .cnext 0#4 := by
      have h' : decode 0x2200000000000000#64 = .ok (.cnext 0#4) := rfl
      rw [h'] at hd
      exact (Except.ok.inj hd).symm
    subst this
    exact id

theorem witness_EveryWordAnswered :
    (given fullQueue 0x3100000000000000#64).inputs = [.command 0x3100000000000000#64] ∧
      answer .qpop fullQueue = some ⟨true, .none, 0#32, [.release 0xA0000003#32]⟩ := ⟨rfl, by decide⟩

theorem witness_FaultHasNoOtherEffect :
    ∃ t r, step (given loaded 0x1000090009000000#64) = .next t ∧ t.responses = r :: loaded.responses ∧
      r.err ≠ .none := ⟨_, _, rfl, rfl, by decide⟩

/-- Each fault, where a later one of the list would hold too if there is one (V52). -/
theorem witness_FaultPriority :
    Reports stopped (.brd 9#16 9#16) .halted ∧ Reports loaded (.mrd 2#4 0xFFFF#16) .illegal ∧
    Reports loaded (.brd 600#16 600#16) .desc ∧ Reports loaded (.cinit 9#4 2000#16 2000#16) .ctx ∧
    Reports loaded (.mrd 0#4 64#16) .range ∧ Reports finished (.cnext 0#4) .finished ∧
    Reports fresh (.cnext 0#4) .none := by
  refine ⟨?_, ?_, ?_, ?_, ?_, ?_, ?_⟩ <;>
    simp only [Reports, HasReservedSpace, HasBadDescriptor, HasBadContext, HasBadRange, HasFinished] <;>
    decide

theorem witness_HaltRefusesAllButFstat :
    Halted stopped ∧ (0#64 : Cmd) ≠ 0x0300000000000000#64 ∧
      (given stopped 0#64).inputs = [.command 0#64] ∧
      (given stopped 0x0300000000000000#64).inputs = [.command 0x0300000000000000#64] ∧
      { stopped with inputs := [.reset none] }.inputs = [.reset none] := by decide

theorem witness_FaultBitsSticky :
    (given stopped 0#64).inputs = [.command 0#64] ∧ (∃ t, step (given stopped 0#64) = .next t) ∧
      (given stopped 0#64).faultReg.getLsbD 0 = true := ⟨rfl, ⟨_, rfl⟩, by decide⟩

/-- `start = end`, `start > end`, and width 17. -/
theorem witness_MalformedDescriptorHalts :
    ¬ Halted loaded ∧ Malformed 9#16 9#16 ∧ Malformed 12#16 4#16 ∧ Malformed 0#16 16#16 ∧
      ¬ Malformed 0#16 15#16 ∧ ¬ Malformed 8#16 9#16 := by decide

/-- One command of each case of the rule. -/
theorem witness_BooleanResultsAreNoFaults :
    fullQueue.Inv ∧ loaded.Inv ∧
    (∃ t r, exec (.qappend 7#32 0#8) fullQueue = .next t ∧ t.responses = r :: fullQueue.responses ∧
      r.ok = false ∧ r.err = .none) ∧
    (∃ t r, exec (.qsetf 7#8) loaded = .next t ∧ t.responses = r :: loaded.responses ∧
      r.ok = false ∧ r.err = .none) ∧
    ∃ t r, exec (.qpeek 4#16) fullQueue = .next t ∧ t.responses = r :: fullQueue.responses ∧
      r.ok = false ∧ r.err = .none :=
  ⟨fullQueue_inv, loaded_inv, ⟨_, _, rfl, rfl, by decide, by decide⟩, ⟨_, _, rfl, rfl, by decide, by decide⟩,
    ⟨_, _, rfl, rfl, by decide, by decide⟩⟩

/-- A command that writes none of the four spaces, and one that writes two of them and not the others. -/
theorem witness_SpacesWrittenOnlyBy :
    (∃ t, exec (.cnext 0#4) fresh = .next t) ∧ (∃ t, exec .qpop fullQueue = .next t) ∧
      (∀ f, Instr.qpop ≠ .qsetf f) ∧ (∀ a d, Instr.mwr 0#4 2#16 0#8 ≠ .mwr 1#4 a d) := by
  exact ⟨⟨_, rfl⟩, ⟨_, rfl⟩, (fun _ h => Instr.noConfusion h), (fun _ _ h => by simp at h)⟩

theorem witness_ContextsDoNotAlias :
    (∃ t, exec (.ccopy 3#4 0#4) midBlock = .next t) ∧ ∀ k2, Instr.ccopy 3#4 0#4 ≠ .ccopy 0#4 k2 := by
  exact ⟨⟨_, rfl⟩, (fun _ h => by simp at h)⟩

theorem witness_ReadsHaveNoSideEffect :
    OnlyReads (.cfin 0#4) ∧ ∃ t r, exec (.cfin 0#4) fresh = .next t ∧
      t.responses = r :: fresh.responses ∧ r.err = .none := ⟨trivial, _, _, rfl, rfl, by decide⟩

theorem witness_WritesAreIdempotent :
    (∃ t r, exec (.bwr 5#16 18#16 7#16) loaded = .next t ∧ t.responses = r :: loaded.responses ∧
      r.err = .none) ∧
    (∃ t r, exec (.bput 511#16 1#1) loaded = .next t ∧ t.responses = r :: loaded.responses ∧ r.err = .none) ∧
    ∃ t r, exec (.mwr 1#4 1023#16 7#8) loaded = .next t ∧ t.responses = r :: loaded.responses ∧
      r.err = .none := ⟨⟨_, _, rfl, rfl, by decide⟩, ⟨_, _, rfl, rfl, by decide⟩, ⟨_, _, rfl, rfl, by decide⟩⟩

/-- The hypotheses of MRD's and MWR's clauses, at the first reserved space and the ends of both memories. -/
theorem witness_MrdReadsByte_MwrWritesByte :
    Halted stopped ∧ ¬ Halted loaded ∧ 2 ≤ (2#4).toNat ∧ loaded.params.nA ≤ (64#16).toNat ∧
      loaded.params.nS ≤ (1024#16).toNat ∧ (63#16).toNat < loaded.params.nA ∧
      (1023#16).toNat < loaded.params.nS := by decide

/-- Words of the encoding lines with all operand bits set, and one with a must-be-zero bit set. -/
theorem witness_EncodedBy :
    0x01F0FFFF00000000#64 &&& 0xFF0F0000FFFFFFFF#64 = (0x0100000000000000#64 : Cmd) ∧
    0x02F0FFFFFF000000#64 &&& 0xFF0F000000FFFFFF#64 = (0x0200000000000000#64 : Cmd) ∧
    0x0300000000000000#64 &&& 0xFFFFFFFFFFFFFFFF#64 = (0x0300000000000000#64 : Cmd) ∧
    0x10FFFFFFFF000000#64 &&& 0xFF00000000FFFFFF#64 = (0x1000000000000000#64 : Cmd) ∧
    0x11FFFFFFFFFFFF00#64 &&& 0xFF000000000000FF#64 = (0x1100000000000000#64 : Cmd) ∧
    0x12FFFF0000000000#64 &&& 0xFF0000FFFFFFFFFF#64 = (0x1200000000000000#64 : Cmd) ∧
    0x13FFFF0000000100#64 &&& 0xFF0000FFFFFFFEFF#64 = (0x1300000000000000#64 : Cmd) ∧
    0x20F0FFFFFFFF0000#64 &&& 0xFF0F00000000FFFF#64 = (0x2000000000000000#64 : Cmd) ∧
    0x21F0000000000000#64 &&& 0xFF0FFFFFFFFFFFFF#64 = (0x2100000000000000#64 : Cmd) ∧
    0x22F0000000000000#64 &&& 0xFF0FFFFFFFFFFFFF#64 = (0x2200000000000000#64 : Cmd) ∧
    0x23FF000000000000#64 &&& 0xFF00FFFFFFFFFFFF#64 = (0x2300000000000000#64 : Cmd) ∧
    0x30FFFFFFFFFF0000#64 &&& 0xFF0000000000FFFF#64 = (0x3000000000000000#64 : Cmd) ∧
    0x330000000000FFFF#64 &&& 0xFFFFFFFFFFFF0000#64 = (0x3300000000000000#64 : Cmd) ∧
    0x350000000000FFFF#64 &&& 0xFFFFFFFFFFFF0000#64 = (0x3500000000000000#64 : Cmd) ∧
    0x3600000000FF0000#64 &&& 0xFFFFFFFFFF00FFFF#64 = (0x3600000000000000#64 : Cmd) ∧
    0x3100000000000000#64 &&& 0xFFFFFFFFFFFFFFFF#64 = (0x3100000000000000#64 : Cmd) ∧
    (BitVec.extractLsb' 56 8 0x3100000000000001#64 = BitVec.extractLsb' 56 8 0x3100000000000000#64 ∧
      0x3100000000000001#64 &&& 0xFFFFFFFFFFFFFFFF#64 ≠ (0x3100000000000000#64 : Cmd)) := by decide

/-- A descriptor of each span (V18). -/
theorem witness_SpanOfRange :
    ¬ Malformed 0#16 7#16 ∧ rangeSpan 0#16 7#16 = 1 ∧ ¬ Malformed 1#16 8#16 ∧ rangeSpan 1#16 8#16 = 2 ∧
      ¬ Malformed 7#16 16#16 ∧ rangeSpan 7#16 16#16 = 3 := by decide

/-- BRD's and BWR's clauses: halted, malformed, just out of range, just in range (V52). -/
theorem witness_BrdReadsField_BwrWritesField :
    Halted stopped ∧ ¬ Halted loaded ∧ Malformed 9#16 9#16 ∧
      (¬ Malformed 497#16 512#16 ∧ loaded.params.nA ≤ (512#16).toNat / 8) ∧
      (¬ Malformed 496#16 511#16 ∧ (511#16).toNat / 8 < loaded.params.nA) := by decide

/-- BGET's and BPUT's clauses: the first bit beyond `ARR` and its last bit (V17). -/
theorem witness_BgetReadsBit_BputWritesBit :
    Halted stopped ∧ ¬ Halted loaded ∧ loaded.params.nA ≤ (512#16).toNat / 8 ∧
      (511#16).toNat / 8 < loaded.params.nA := by decide

theorem witness_BitRangeRoundTrip_SingleBitAgreesWithRange :
    ¬ Halted loaded ∧ ¬ Malformed 5#16 18#16 ∧ (18#16).toNat / 8 < loaded.params.nA ∧
      (5#16).toNat ≤ (5#16).toNat ∧ (18#16).toNat ≤ (18#16).toNat ∧ (5#16).toNat ≤ (18#16).toNat := by decide

/-- Two ranges that share a byte and meet at its middle. -/
theorem witness_DisjointWritesCommute :
    ¬ Halted loaded ∧ ¬ Malformed 4#16 11#16 ∧ ¬ Malformed 12#16 19#16 ∧
      (11#16).toNat / 8 < loaded.params.nA ∧ (19#16).toNat / 8 < loaded.params.nA ∧
      (11#16).toNat < (12#16).toNat := by decide

/-- CINIT's clauses: the last context and the first index that names none; a view that fits exactly and one byte more. -/
theorem witness_CinitConstructs :
    Halted stopped ∧ ¬ Halted loaded ∧ loaded.params.nCtx ≤ (4#4).toNat ∧ (3#4).toNat < loaded.params.nCtx ∧
      loaded.params.nS < (1000#16).toNat + (25#16).toNat ∧
      (1000#16).toNat + (24#16).toNat ≤ loaded.params.nS := by decide

/-- CFIN's, CNEXT's and CCOPY's fault clauses and the hypotheses of their effects. -/
theorem witness_context_commands :
    Halted stopped ∧ ¬ Halted finished ∧ finished.params.nCtx ≤ (4#4).toNat ∧
      (finished.getCtx 1#4).valid = false ∧ (1#4).toNat < finished.params.nCtx ∧
      (finished.getCtx 0#4).valid = true ∧ (finished.getCtx 0#4).fin = true ∧
      (fresh.getCtx 0#4).valid = true ∧ (fresh.getCtx 0#4).fin = false := by decide

/-- The zero-consuming outcome: three bytes and the zero after them. -/
theorem witness_CnextScans_zero :
    ¬ Halted fresh ∧ (0#4).toNat < fresh.params.nCtx ∧ (fresh.getCtx 0#4).valid = true ∧
      (fresh.getCtx 0#4).fin = false ∧ (fresh.getCtx 0#4).br = 0#8 ∧
      (∀ i < 3, fresh.srcByte (0 + 0 + i) ≠ 0#8) ∧ fresh.srcByte 3 = 0#8 ∧ 0 + 3 < (6#16).toNat := by decide

/-- The same encoder before its second Scan (V22). -/
def secondScan : State := withCtx ⟨true, 0#16, 6#16, 4#16, 0#8, 3#16, true, false⟩

/-- The end-of-input outcome: two bytes after the zero. -/
theorem witness_CnextScans_end :
    ¬ Halted secondScan ∧ (0#4).toNat < secondScan.params.nCtx ∧ (secondScan.getCtx 0#4).valid = true ∧
      (secondScan.getCtx 0#4).fin = false ∧ (secondScan.getCtx 0#4).br = 0#8 ∧
      (secondScan.getCtx 0#4).rc = 4#16 ∧
      (∀ i < 2, secondScan.srcByte (0 + 4 + i) ≠ 0#8) ∧ (4#16).toNat + 2 = (6#16).toNat := by decide

/-- A new encoder over the first `len` bytes of `n` bytes 7. -/
def sevens (n : Nat) (len : Half) : State := { State.reset with
  src := (List.range' 0 n).map fun i => (i, 7#8)
  ctx := [newEncoder 0#16 len, Context.empty, Context.empty, Context.empty] }

/-- The same encoder with a zero byte stored after the bytes 7. -/
def sevensZero (n : Nat) (len : Half) : State := (sevens n len).writeSrc n 0#8

theorem get?_map_range' (v : Byte) (lo n i : Nat) (h : lo ≤ i) (h' : i < lo + n) :
    Memory.get? ((List.range' lo n).map fun j => (j, v)) i = some v := by
  induction n generalizing lo with
  | zero => omega
  | succ n ih =>
    simp only [List.range'_succ, List.map_cons, Memory.get?]
    split_ifs with he
    · rfl
    · exact ih (lo + 1) (by omega) (by omega)

theorem wfFrom_map_range' (v : Byte) (lo n size : Nat) (h : lo + n ≤ size) :
    Memory.wfFrom lo size ((List.range' lo n).map fun j => (j, v)) = true := by
  induction n generalizing lo with
  | zero => rfl
  | succ n ih =>
    simp only [List.range'_succ, List.map_cons, Memory.wfFrom, Bool.and_eq_true, decide_eq_true_eq]
    exact ⟨⟨le_refl _, by omega⟩, ih (lo + 1) (by omega)⟩

theorem sevens_srcByte (n : Nat) (len : Half) (i : Nat) (h : i < n) : (sevens n len).srcByte i = 7#8 := by
  rw [State.srcByte, sevens, get?_map_range' 7#8 0 n i (by omega) (by omega)]
  rfl

theorem sevensZero_srcByte (n : Nat) (len : Half) (i : Nat) (h : i < n) :
    (sevensZero n len).srcByte i = 7#8 := by
  rw [sevensZero, State.srcByte_writeSrc, if_neg (by omega), sevens_srcByte n len i h]

theorem sevens_inv (n : Nat) (len : Half) (hn : n ≤ 1024) (hl : len.toNat ≤ 1024) : (sevens n len).Inv where
  params := (by decide : State.reset.params.InRange)
  arrForm := rfl
  srcForm := wfFrom_map_range' 7#8 0 n 1024 (by omega)
  contexts := rfl
  encoders c hc hv := by
    simp only [sevens, List.mem_cons, List.not_mem_nil, or_false, or_self] at hc
    rcases hc with rfl | rfl
    · exact ⟨by simpa [newEncoder, sevens, State.reset, State.resetWith, defaultParams] using hl,
        by simp [newEncoder], by simp [newEncoder], rfl, fun h => by simp [newEncoder] at h⟩
    · simp [Context.empty] at hv
  handles := rfl
  flags := rfl
  head := (by decide : 0 < 4)
  fill := (by decide : 0 ≤ 4)
  emptySlots := (by decide :
    ∀ j < State.reset.params.c, ¬ State.reset.Occupied j → State.reset.handleIn j = emptyHandle)
  haltBit := (by decide : State.reset.faultReg.getLsbD 0 = State.reset.faultReg.getLsbD 2)
  reservedBits :=
    (by decide : State.reset.faultReg.getLsbD 6 = false ∧ State.reset.faultReg.getLsbD 7 = false)

/-- The cap outcome, at the end of the input, and with a zero byte right after the 254 bytes. -/
theorem witness_CnextScans_cap :
    (¬ Halted (sevens 254 254#16) ∧ (0#4).toNat < (sevens 254 254#16).params.nCtx ∧
      (sevens 254 254#16).getCtx 0#4 = newEncoder 0#16 254#16 ∧
      (∀ i < 254, (sevens 254 254#16).srcByte (0 + 0 + i) ≠ 0#8) ∧ (0#16).toNat + 254 ≤ (254#16).toNat) ∧
    (sevensZero 254 255#16).getCtx 0#4 = newEncoder 0#16 255#16 ∧
      (∀ i < 254, (sevensZero 254 255#16).srcByte (0 + 0 + i) ≠ 0#8) ∧
      (sevensZero 254 255#16).srcByte (0 + 0 + 254) = 0#8 ∧ (0#16).toNat + 254 < (255#16).toNat := by
  refine ⟨⟨by decide, by decide, rfl, fun i hi => ?_, by decide⟩, rfl, fun i hi => ?_, ?_, by decide⟩
  · rw [sevens_srcByte _ _ _ (by omega)]; decide
  · rw [sevensZero_srcByte _ _ _ (by omega)]; decide
  · rw [sevensZero, State.srcByte_writeSrc, if_pos (by omega)]

/-- The longest run below the cap, 253 bytes: with a zero byte after it, and at the end of the input. -/
theorem witness_CnextScans_253 :
    (¬ Halted (sevensZero 253 254#16) ∧ (0#4).toNat < (sevensZero 253 254#16).params.nCtx ∧
      (sevensZero 253 254#16).getCtx 0#4 = newEncoder 0#16 254#16 ∧
      (∀ i < 253, (sevensZero 253 254#16).srcByte (0 + 0 + i) ≠ 0#8) ∧
      (sevensZero 253 254#16).srcByte (0 + 0 + 253) = 0#8 ∧ (0#16).toNat + 253 < (254#16).toNat) ∧
    ¬ Halted (sevens 253 253#16) ∧ (0#4).toNat < (sevens 253 253#16).params.nCtx ∧
      (sevens 253 253#16).getCtx 0#4 = newEncoder 0#16 253#16 ∧
      (∀ i < 253, (sevens 253 253#16).srcByte (0 + 0 + i) ≠ 0#8) ∧ (0#16).toNat + 253 = (253#16).toNat := by
  refine ⟨⟨fun h => absurd h (show ¬ State.reset.faultReg.getLsbD 0 = true by decide),
    (by decide : 0 < State.reset.params.nCtx), rfl, fun i hi => ?_, ?_, by decide⟩,
    by decide, by decide, rfl, fun i hi => ?_, by decide⟩
  · rw [sevensZero_srcByte _ _ _ (by omega)]; decide
  · rw [sevensZero, State.srcByte_writeSrc, if_pos (by omega)]
  · rw [sevens_srcByte _ _ _ (by omega)]; decide

theorem witness_CnextEmits :
    ¬ Halted lastLiteral ∧ (0#4).toNat < lastLiteral.params.nCtx ∧ (lastLiteral.getCtx 0#4).valid = true ∧
      (lastLiteral.getCtx 0#4).fin = false ∧ (lastLiteral.getCtx 0#4).br ≠ 0#8 := by decide

theorem witness_CcopyCopies_CopyContinuesTheStream :
    midBlock.Inv ∧ ¬ Halted midBlock ∧ (3#4).toNat < midBlock.params.nCtx ∧
      (0#4).toNat < midBlock.params.nCtx ∧ (midBlock.getCtx 0#4).valid = true :=
  ⟨midBlock_inv, by decide, by decide, by decide, by decide⟩

theorem witness_StreamDecodesToView_StreamZeroFreeAndBounded :
    fresh.Inv ∧ ¬ Halted fresh ∧ (0#4).toNat < fresh.params.nCtx ∧
      fresh.getCtx 0#4 = newEncoder 0#16 6#16 ∧ streamBound (6#16).toNat ≤ 7 :=
  ⟨fresh_inv, by decide, by decide, by decide, by decide⟩

/-- An encoder over the one zero byte, and one over the three bytes before it. -/
theorem witness_StreamEdgeCases :
    (withCtx (newEncoder 3#16 1#16)).Inv ∧ (withCtx (newEncoder 0#16 3#16)).Inv ∧
      ¬ Halted (withCtx (newEncoder 3#16 1#16)) ∧ streamBound (1#16).toNat ≤ 2 ∧
      (withCtx (newEncoder 3#16 1#16)).getCtx 0#4 = newEncoder 3#16 1#16 ∧
      (∀ i < 1, (withCtx (newEncoder 3#16 1#16)).srcByte (3 + i) = 0#8) ∧
      (∀ i < 3, (withCtx (newEncoder 0#16 3#16)).srcByte (0 + i) ≠ 0#8) :=
  ⟨invOk_sound (by decide), invOk_sound (by decide), by decide, by decide, by decide, by decide, by decide⟩

/-- The ends of the lengths: an empty view at the end of `SRC`, where both clauses hold and give the one byte `0x01`,
and a view of 254 bytes, none of them zero. -/
theorem witness_StreamEdgeCases_bounds :
    ((withCtx (newEncoder 1024#16 0#16)).Inv ∧ ¬ Halted (withCtx (newEncoder 1024#16 0#16)) ∧
      (0#4).toNat < (withCtx (newEncoder 1024#16 0#16)).params.nCtx ∧
      (withCtx (newEncoder 1024#16 0#16)).getCtx 0#4 = newEncoder 1024#16 0#16 ∧
      streamBound (0#16).toNat ≤ 1 ∧
      List.replicate ((0#16).toNat + 1) 1#8 =
        BitVec.ofNat 8 ((0#16).toNat + 1) ::
          (withCtx (newEncoder 1024#16 0#16)).viewBytes (newEncoder 1024#16 0#16)) ∧
    (sevens 254 254#16).Inv ∧ ¬ Halted (sevens 254 254#16) ∧ (0#4).toNat < (sevens 254 254#16).params.nCtx ∧
      (sevens 254 254#16).getCtx 0#4 = newEncoder 0#16 254#16 ∧ streamBound (254#16).toNat ≤ 255 ∧
      (254#16).toNat ≤ 254 ∧
      ∀ i < (254#16).toNat, (sevens 254 254#16).srcByte ((0#16).toNat + i) ≠ 0#8 := by
  refine ⟨⟨invOk_sound (by decide), by decide, by decide, by decide, by decide, by decide⟩,
    sevens_inv _ _ (by decide) (by decide), by decide, by decide, rfl, by decide, by decide, fun i hi => ?_⟩
  have : i < 254 := hi
  rw [sevens_srcByte _ _ _ (by simpa using this)]; decide

/-- QAPPEND's and QPOP's clauses: halted, full, not full; empty, not empty. -/
theorem witness_QappendStores_QpopReleases_QsetfWritesHead :
    Halted stopped ∧ ¬ Halted fullQueue ∧ fullQueue.uc.toNat = fullQueue.params.c ∧
      ¬ Halted oneElement ∧ oneElement.uc.toNat ≠ oneElement.params.c ∧ oneElement.uc ≠ 0#16 ∧
      ¬ Halted loaded ∧ loaded.uc = 0#16 := by decide

theorem witness_QreadReadsHead_QreadfReadsHead :
    Halted stopped ∧ ¬ Halted loaded ∧ loaded.Inv ∧ loaded.uc = 0#16 ∧ ¬ Halted oneElement ∧
      oneElement.uc ≠ 0#16 := ⟨by decide, by decide, loaded_inv, by decide, by decide, by decide⟩

/-- QPEEK's and QPEEKF's clauses: at the capacity, just below it, at the fill and just below it. -/
theorem witness_QpeekReadsOffset_QpeekfReadsOffset :
    Halted stopped ∧ ¬ Halted oneElement ∧ oneElement.Inv ∧ oneElement.params.c ≤ (4#16).toNat ∧
      ((3#16).toNat < oneElement.params.c ∧ oneElement.uc.toNat ≤ (3#16).toNat) ∧
      ((0#16).toNat < oneElement.params.c ∧ (0#16).toNat < oneElement.uc.toNat) ∧
      oneElement.uc.toNat ≤ (1#16).toNat :=
  ⟨by decide, by decide, oneElement_inv, by decide, by decide, by decide, by decide⟩

theorem witness_QresetEmpties_QstatReportsFill : Halted stopped ∧ ¬ Halted fullQueue := by decide

theorem witness_QueueIsFifo :
    oneElement.Inv ∧ ¬ Halted oneElement ∧ oneElement.uc.toNat < oneElement.params.c ∧
      0 < oneElement.uc.toNat ∧ (0#16).toNat < oneElement.uc.toNat :=
  ⟨oneElement_inv, by decide, by decide, by decide, by decide⟩

theorem witness_CapacityIsExact :
    State.reset.Inv ∧ ¬ Halted State.reset ∧ State.reset.uc = 0#16 ∧
      (List.replicate 4 (Instr.qappend 1#32 0#8)).length = State.reset.params.c ∧
      ∀ i ∈ List.replicate 4 (Instr.qappend 1#32 0#8), ∃ h f, i = .qappend h f :=
  ⟨invOk_sound (by decide), by decide, by decide, by decide,
    fun _ hi => ⟨_, _, List.eq_of_mem_replicate hi⟩⟩

end Sys2Proof.Tests
end

section
/-! PROOFS of the statements of 00_scope.md. What a step does with a word the host presents, what every command answers
and which events it reports, and what the state after reset satisfies. -/

namespace Sys2Proof.Machine

open Sys2Proof.Config

/-! ### A step on a presented word (rule R8) -/

theorem step_of_decode_ok {s : State} {w : Cmd} {i : Instr} {rest : List HostInput}
    (hin : s.inputs = .command w :: rest) (hd : decode w = .ok i) :
    step s = exec i { s with inputs := rest } := by
  simp [step, State.takeInput, hin, hd]

theorem step_of_decode_error {s : State} {w : Cmd} {err : DecodeError} {rest : List HostInput}
    (hin : s.inputs = .command w :: rest) (hd : decode w = .error err) :
    step s = { s with inputs := rest }.rejectWord := by
  simp [step, State.takeInput, hin, hd]

/-- Settles O10: `step` takes the input and decodes its word. -/
theorem stepRunsDecodedCommand : Obligations.StepRunsDecodedCommand := by
  unfold Obligations.StepRunsDecodedCommand
  exact fun _ _ _ _ hin hd => step_of_decode_ok hin hd

/-! ### What the memory writes leave unchanged -/

theorem State.arrStore_changes_only_arr (s : State) (a n : Nat) (v : Word) :
    ∃ m, s.arrStore a n v = { s with arr := m } := by
  induction n generalizing v with
  | zero => exact ⟨s.arr, rfl⟩
  | succ n ih =>
    obtain ⟨m, hm⟩ := ih (v >>> 8)
    exact ⟨_, by rw [State.arrStore, hm]; rfl⟩

theorem State.writeRange_changes_only_arr (s : State) (start stop value : Half) :
    ∃ m, s.writeRange start stop value = { s with arr := m } := by
  unfold State.writeRange
  dsimp only
  split
  · exact ⟨_, rfl⟩
  · exact s.arrStore_changes_only_arr _ _ _
  · exact ⟨_, rfl⟩

theorem State.writeSpace_changes_only_memories (s : State) (space : BitVec 4) (addr : Half) (v : Byte) :
    ∃ m m', s.writeSpace space addr v = { s with arr := m, src := m' } := by
  unfold State.writeSpace
  split
  · exact ⟨_, _, rfl⟩
  · exact ⟨_, _, rfl⟩

/-! ### The events of a command (rules R101 and R203) -/

theorem mem_holdEvents {h : Handle} {e : Event} :
    e ∈ holdEvents h ↔ h ≠ emptyHandle ∧ e = .hold h := by
  unfold holdEvents
  split <;> simp_all

theorem mem_releaseEvents {h : Handle} {e : Event} :
    e ∈ releaseEvents h ↔ h ≠ emptyHandle ∧ e = .release h := by
  unfold releaseEvents
  split <;> simp_all

/-- The events a command reports when it has its effect: only QAPPEND, QPOP and QRESET change what the queue holds. -/
def eventsOf (s : State) : Instr → List Event
  | .qappend handle _ => holdEvents handle
  | .qpop => releaseEvents (s.handleIn s.ri.toNat)
  | .qreset => s.qh.flatMap releaseEvents
  | _ => []

theorem eventsOf_never_empty_handle {s : State} {i : Instr} {e : Event} (he : e ∈ eventsOf s i) :
    e ≠ .hold emptyHandle ∧ e ≠ .release emptyHandle := by
  cases i with
  | qappend handle flags =>
    obtain ⟨hne, rfl⟩ := mem_holdEvents.mp he
    simp [hne]
  | qpop =>
    obtain ⟨hne, rfl⟩ := mem_releaseEvents.mp he
    simp [hne]
  | qreset =>
    obtain ⟨h, -, heh⟩ := List.mem_flatMap.mp he
    obtain ⟨hne, rfl⟩ := mem_releaseEvents.mp heh
    simp [hne]
  | _ => cases he

theorem queue_command_of_eventsOf_ne_nil {s : State} {i : Instr} (hne : eventsOf s i ≠ []) :
    (∃ h f, i = .qappend h f) ∨ i = .qpop ∨ i = .qreset := by
  cases i with
  | qappend handle flags => exact .inl ⟨handle, flags, rfl⟩
  | qpop => exact .inr (.inl rfl)
  | qreset => exact .inr (.inr rfl)
  | _ => exact absurd rfl hne

/-! ### What a command answers (rules R8, R100 and R262) -/

/-- `t` is the end of the command `i`, run in `s` to its effect: one more response with `err = 0`, whose events are the
command's or none; the host's part is otherwise as it was. -/
def Completes (i : Instr) (s t : State) : Prop :=
  ∃ u ok data events, t = State.respondWith u ok data events ∧ u.inputs = s.inputs ∧
    u.responses = s.responses ∧ (events = [] ∨ events = eventsOf s i)

/-- `r` completes the command or takes one fault, and nothing else. -/
def Answers (i : Instr) (s : State) (r : Result) : Prop :=
  (∃ t, r = .next t ∧ Completes i s t) ∨ ∃ e, r = .next (s.raise e)

section
variable {i : Instr} {s u : State}

theorem completes_respond {ok : Bool} {data : Word} (hin : u.inputs = s.inputs)
    (hresp : u.responses = s.responses) : Completes i s (u.respond ok data) :=
  ⟨u, ok, data, [], rfl, hin, hresp, .inl rfl⟩

theorem completes_respondWith_eventsOf {ok : Bool} {data : Word} (hin : u.inputs = s.inputs)
    (hresp : u.responses = s.responses) : Completes i s (u.respondWith ok data (eventsOf s i)) :=
  ⟨u, ok, data, eventsOf s i, rfl, hin, hresp, .inr rfl⟩

theorem Completes.ite {p : Prop} [Decidable p] {t t' : State} (ht : Completes i s t)
    (ht' : Completes i s t') : Completes i s (if p then t else t') := by
  split
  · exact ht
  · exact ht'

theorem Completes.answers_perform {t : State} {checks : List (Bool × ErrCode)} (ht : Completes i s t) :
    Answers i s (s.perform checks t) := by
  obtain ⟨heq, -⟩ | ⟨e, heq, -⟩ := s.perform_cases t checks
  · exact .inl ⟨t, heq, ht⟩
  · exact .inr ⟨e, heq⟩

end

/-- Everything a command can answer: its completion, or one fault. -/
theorem exec_answers (i : Instr) (s : State) : Answers i s (exec i s) := by
  cases i with
  | fstat => exact .inl ⟨_, rfl, completes_respond rfl rfl⟩
  | mrd | brd | bget | bput | cinit | cfin | cnext | ccopy | qread | qreadf | qstat =>
    exact Completes.answers_perform (completes_respond rfl rfl)
  | mwr space addr data =>
    obtain ⟨m, m', hm⟩ := s.writeSpace_changes_only_memories space addr data
    exact (completes_respond (by rw [hm]) (by rw [hm])).answers_perform
  | bwr start stop value =>
    obtain ⟨m, hm⟩ := s.writeRange_changes_only_arr start stop value
    exact (completes_respond (by rw [hm]) (by rw [hm])).answers_perform
  | qpeek | qpeekf | qsetf =>
    exact Completes.answers_perform (.ite (completes_respond rfl rfl) (completes_respond rfl rfl))
  | qappend handle flags =>
    have hstored : Completes (.qappend handle flags) s
        ((s.pushBack handle flags).respondWith true 0#32 (holdEvents handle)) :=
      completes_respondWith_eventsOf rfl rfl
    exact ((completes_respond rfl rfl).ite hstored).answers_perform
  | qpop =>
    have hreleased : Completes .qpop s
        (s.popFront.respondWith true 0#32 (releaseEvents (s.handleIn s.ri.toNat))) :=
      completes_respondWith_eventsOf rfl rfl
    exact ((completes_respond rfl rfl).ite hreleased).answers_perform
  | qreset =>
    have hcleared : Completes .qreset s
        (s.clearQueue.respondWith true 0#32 (s.qh.flatMap releaseEvents)) :=
      completes_respondWith_eventsOf rfl rfl
    exact hcleared.answers_perform

/-- Settles O16: a decoded word completes its command or takes a fault, a rejected word takes a fault, and a fault has
`ok = 0` and no event. -/
theorem everyWordAnswered : Obligations.EveryWordAnswered := by
  unfold Obligations.EveryWordAnswered
  intro s w rest hin
  cases hd : decode w with
  | error err =>
    rw [step_of_decode_error hin hd, State.rejectWord_eq]
    exact ⟨_, _, rfl, rfl, rfl, by simp, by simp, by simp⟩
  | ok i =>
    rw [step_of_decode_ok hin hd]
    obtain ⟨t, heq, u, ok, data, events, rfl, hu, hresp, hev⟩ | ⟨e, heq⟩ :=
      exec_answers i { s with inputs := rest }
    · refine ⟨_, ⟨ok, .none, data, events⟩, heq, by simpa using hu, by simp [hresp], fun _ => rfl, ?_⟩
      obtain rfl | rfl := hev
      · simp
      · refine ⟨fun e he => eventsOf_never_empty_handle he, fun hne => ?_⟩
        simpa using queue_command_of_eventsOf_ne_nil hne
    · exact ⟨_, _, heq, rfl, rfl, by simp, by simp, by simp⟩

/-! ### The state after reset (rules R4 and R55) -/

theorem Context.empty_of_mem_resetWith {p : Params} {c : Context}
    (hc : c ∈ (State.resetWith p).ctx) : c = Context.empty :=
  List.eq_of_mem_replicate hc

theorem State.resetWith_inv {p : Params} (hp : p.InRange) : (State.resetWith p).Inv where
  params := hp
  arrForm := rfl
  srcForm := rfl
  contexts := List.length_replicate
  encoders c hc hv := by
    rw [Context.empty_of_mem_resetWith hc] at hv
    cases hv
  handles := List.length_replicate
  flags := List.length_replicate
  head := by
    obtain ⟨-, -, -, hc, -⟩ := hp
    exact hc
  fill := Nat.zero_le _
  emptySlots _ _ _ := by
    simp [State.handleIn, State.resetWith, List.getD_eq_getElem?_getD]
  haltBit := by simp [State.resetWith]
  reservedBits := by simp [State.resetWith]

theorem State.resetWith_eventLaw (p : Params) : (State.resetWith p).EventLaw := by
  intro h hne
  have hslots : (State.resetWith p).qh.count h = 0 :=
    List.count_eq_zero.mpr fun hmem => hne (List.eq_of_mem_replicate hmem)
  rw [hslots]
  rfl

theorem State.resetWith_literalsNonzero (p : Params) : (State.resetWith p).LiteralsNonzero := by
  intro c hc hv
  rw [Context.empty_of_mem_resetWith hc] at hv
  cases hv

/-- Settles O12: no context is valid, no slot holds a handle, and nothing has been answered. -/
theorem resetMeetsInvariants : Obligations.ResetMeetsInvariants := by
  unfold Obligations.ResetMeetsInvariants
  exact ⟨fun p hp => ⟨State.resetWith_inv hp, State.resetWith_eventLaw p,
    State.resetWith_literalsNonzero p⟩, rfl⟩

end Sys2Proof.Machine
end

section
/-! PROOFS of the statements of 10_state.md. What a completed command changes of the block, said once (`Effect`), and from
it: what every step keeps of the invariants, that no bit of `FAULT` is cleared, and that a write to one context reaches no other. -/

namespace Sys2Proof.Machine

open Sys2Proof.Config

/-! ### What a command that completes does to the block -/

/-- `u` is `s` after the effect of the command `i`, its response left out. Each case carries what the command's checks
have found (rule R270); a command that only reads, or that answers a boolean `false` (rule R271), changes nothing. -/
inductive Effect (s : State) : Instr → State → Prop
  | unchanged (i : Instr) : Effect s i s
  | mwr {space : BitVec 4} {addr : Half} {data : Byte} (hspace : reservedSpace space = false)
      (hin : s.outsideSpace space addr = false) :
      Effect s (.mwr space addr data) (s.writeSpace space addr data)
  | bwr {start stop value : Half} (hrange : malformedRange start stop = false)
      (hin : s.outsideArr stop = false) :
      Effect s (.bwr start stop value) (s.writeRange start stop value)
  | bput {offset : Half} {bit : BitVec 1} (hin : s.outsideArr offset = false) :
      Effect s (.bput offset bit) (s.writeBit offset bit)
  | cinit {k : BitVec 4} {base len : Half} (hk : s.noContext k = false)
      (hview : s.outsideSrc base len = false) :
      Effect s (.cinit k base len) (s.setCtx k (newEncoder base len))
  | cnext {k : BitVec 4} (hk : s.noContext k = false) (hvalid : s.noEncoder k = false)
      (hfin : (s.getCtx k).fin = false) :
      Effect s (.cnext k) (s.setCtx k (s.nextByte (s.getCtx k)).2)
  | ccopy {k k2 : BitVec 4} (hk : s.noContext k = false) (hk2 : s.noContext k2 = false)
      (hvalid : s.noEncoder k2 = false) :
      Effect s (.ccopy k k2) (s.setCtx k (s.getCtx k2))
  | qappend {h : Handle} {flags : Byte} (hroom : s.queueFull = false) :
      Effect s (.qappend h flags) (s.pushBack h flags)
  | qpop (hfilled : s.queueEmpty = false) : Effect s .qpop s.popFront
  | qsetf {flags : Byte} (hfilled : s.queueEmpty = false) :
      Effect s (.qsetf flags) { s with qf := s.qf.set s.ri.toNat flags }
  | qreset : Effect s .qreset s.clearQueue

/-- `t` is the effect of `i` on `s` and one response after it. -/
def Effected (i : Instr) (s t : State) : Prop :=
  ∃ u ok data events, Effect s i u ∧ t = u.respondWith ok data events

theorem Effect.respondWith {i : Instr} {s u : State} (hu : Effect s i u) (ok : Bool) (data : Word)
    (events : List Event) : Effected i s (u.respondWith ok data events) :=
  ⟨u, ok, data, events, hu, rfl⟩

theorem Effect.respond {i : Instr} {s u : State} (hu : Effect s i u) (ok : Bool) (data : Word) :
    Effected i s (u.respond ok data) :=
  hu.respondWith ok data []

theorem Effected.ite_bool {i : Instr} {s t t' : State} {b : Bool} (ht : Effected i s t)
    (ht' : b = false → Effected i s t') : Effected i s (if b then t else t') := by
  cases b with
  | true => exact ht
  | false => exact ht' rfl

/-- A command is effected, or takes one fault and does nothing else. -/
theorem perform_effected {i : Instr} {s t v : State} {checks : List (Bool × ErrCode)}
    (h : s.perform checks t = .next v) (ht : checks.Forall (·.1 = false) → Effected i s t) :
    Effected i s v ∨ ∃ e, v = s.raise e := by
  obtain ⟨heq, hnone⟩ | ⟨e, heq, -⟩ := s.perform_cases t checks
  · obtain rfl : t = v := by simpa [heq] using h
    exact .inl (ht (List.forall_iff_forall_mem.mpr ((firstFault_eq_none checks).mp hnone)))
  · obtain rfl : s.raise e = v := by simpa [heq] using h
    exact .inr ⟨e, rfl⟩

/-- Everything a command can do: its effect and a response, or one fault. -/
theorem exec_effected {i : Instr} {s t : State} (h : exec i s = .next t) :
    Effected i s t ∨ ∃ e, t = s.raise e := by
  cases i with
  | fstat => exact perform_effected (checks := []) h fun _ => (Effect.unchanged _).respond _ _
  | mrd | brd | bget | cfin | qread | qreadf | qstat =>
    exact perform_effected h fun _ => (Effect.unchanged _).respond _ _
  | qpeek | qpeekf =>
    exact perform_effected h fun _ =>
      ((Effect.unchanged _).respond _ _).ite_bool fun _ => (Effect.unchanged _).respond _ _
  | mwr space addr data =>
    exact perform_effected h fun ⟨_, hspace, hin⟩ => (Effect.mwr hspace hin).respond _ _
  | bwr start stop value =>
    exact perform_effected h fun ⟨_, hrange, hin⟩ => (Effect.bwr hrange hin).respond _ _
  | bput offset bit =>
    exact perform_effected h fun ⟨_, hin⟩ => (Effect.bput hin).respond _ _
  | cinit k base len =>
    exact perform_effected h fun ⟨_, hk, hview⟩ => (Effect.cinit hk hview).respond _ _
  | cnext k =>
    exact perform_effected h fun ⟨_, hk, hvalid, hfin⟩ => (Effect.cnext hk hvalid hfin).respond _ _
  | ccopy k k2 =>
    exact perform_effected h fun ⟨_, hk, hk2, hvalid⟩ => (Effect.ccopy hk hk2 hvalid).respond _ _
  | qappend handle flags =>
    exact perform_effected h fun _ => ((Effect.unchanged _).respond _ _).ite_bool fun hroom =>
      (Effect.qappend hroom).respondWith _ _ _
  | qpop =>
    exact perform_effected h fun _ => ((Effect.unchanged _).respond _ _).ite_bool fun hfilled =>
      (Effect.qpop hfilled).respondWith _ _ _
  | qsetf flags =>
    exact perform_effected h fun _ => ((Effect.unchanged _).respond _ _).ite_bool fun hfilled =>
      (Effect.qsetf hfilled).respond _ _
  | qreset => exact perform_effected h fun _ => Effect.qreset.respondWith _ _ _

/-- Everything a step can make of a state: the state itself, the one after reset, the one after a fault, or the one after
the effect of the decoded command. -/
theorem step_effected {s t : State} (h : step s = .next t) :
    t = s ∨
    (∃ cut rest, s.inputs = .reset cut :: rest ∧ t = { s with inputs := rest }.hardwareReset) ∨
    (∃ rest e, t = { s with inputs := rest }.raise e) ∨
    ∃ w i rest, s.inputs = .command w :: rest ∧ decode w = .ok i ∧
      Effected i { s with inputs := rest } t := by
  obtain ⟨-, heq⟩ | ⟨cut, rest, hin, heq⟩ | ⟨w, i, rest, hin, hd, heq⟩ | ⟨w, e, rest, -, -, heq⟩ :=
    step_cases s
  · exact .inl (by simpa [heq] using h.symm)
  · exact .inr (.inl ⟨cut, rest, hin, by simpa [heq] using h.symm⟩)
  · obtain heff | ⟨e, rfl⟩ := exec_effected (heq ▸ h)
    · exact .inr (.inr (.inr ⟨w, i, rest, hin, hd, heff⟩))
    · exact .inr (.inr (.inl ⟨rest, e, rfl⟩))
  · rw [heq, State.rejectWord_eq] at h
    exact .inr (.inr (.inl ⟨rest, _, (Host.Outcome.next.inj h).symm⟩))

/-- No effect changes a parameter, and none but a fault's changes `FAULT`. -/
theorem Effect.params_faultReg_eq {i : Instr} {s u : State} (hu : Effect s i u) :
    u.params = s.params ∧ u.faultReg = s.faultReg := by
  cases hu with
  | @mwr space addr data =>
    obtain ⟨m, m', hm⟩ := s.writeSpace_changes_only_memories space addr data
    exact ⟨by rw [hm], by rw [hm]⟩
  | @bwr start stop value =>
    obtain ⟨m, hm⟩ := s.writeRange_changes_only_arr start stop value
    exact ⟨by rw [hm], by rw [hm]⟩
  | _ => exact ⟨rfl, rfl⟩

/-! ### The fault register (rule R46) -/

/-- Settles O20: a command that completes leaves `FAULT` as it is, and a fault only sets bits of it. -/
theorem faultBitsSticky : Obligations.FaultBitsSticky := by
  unfold Obligations.FaultBitsSticky
  intro s t w rest j hin h hj
  obtain rfl | ⟨cut, rest', hin', -⟩ | ⟨rest', e, rfl⟩ | ⟨w', i, rest', -, -, u, ok, data, events, hu, rfl⟩ :=
    step_effected h
  · exact hj
  · simp [hin] at hin'
  · exact recordFault_sticky e s.faultReg hj
  · obtain ⟨-, hfault⟩ := hu.params_faultReg_eq
    rw [State.respondWith_faultReg, hfault]
    exact hj

/-! ### Contexts are separate (rule R24) -/

/-- Settles O24: the effects that write a context write the one their command names, and the others write none. -/
theorem contextsDoNotAlias : Obligations.ContextsDoNotAlias := by
  unfold Obligations.ContextsDoNotAlias
  intro i s t k h hcinit hcnext hccopy
  obtain ⟨u, ok, data, events, hu, rfl⟩ | ⟨e, rfl⟩ := exec_effected h
  · change u.getCtx k = s.getCtx k
    cases hu with
    | @mwr space addr data =>
      obtain ⟨m, m', hm⟩ := s.writeSpace_changes_only_memories space addr data
      rw [hm]
      rfl
    | @bwr start stop value =>
      obtain ⟨m, hm⟩ := s.writeRange_changes_only_arr start stop value
      rw [hm]
      rfl
    | cinit => exact s.getCtx_setCtx_other _ (by rintro rfl; exact hcinit _ _ rfl)
    | cnext => exact s.getCtx_setCtx_other _ (by rintro rfl; exact hcnext rfl)
    | ccopy => exact s.getCtx_setCtx_other _ (by rintro rfl; exact hccopy _ rfl)
    | _ => rfl
  · rfl

/-! ### Arithmetic of widths, ranges and slots -/

theorem toNat_ofNat_of_lt {n w : Nat} (h : n < 2 ^ w) : (BitVec.ofNat w n).toNat = n := by
  rw [BitVec.toNat_ofNat, Nat.mod_eq_of_lt h]

/-- A well-formed range of `ARR` ends at most two bytes after the byte it starts in (rule R132). -/
theorem byteIndex_of_goodRange {start stop : Half} (hrange : malformedRange start stop = false) :
    byteIndex start ≤ byteIndex stop ∧ byteIndex stop ≤ byteIndex start + 2 := by
  simp only [malformedRange, maxWidth, Bool.not_eq_false', decide_eq_true_eq] at hrange
  unfold byteIndex
  omega

/-- The relative offset of slot `j` from a head `r`. -/
theorem offset_eq_ite {c j r : Nat} (hj : j < c) (hr : r < c) :
    (j + c - r) % c = if r ≤ j then j - r else j + c - r := by
  split_ifs with hle
  · rw [Nat.mod_eq_sub_mod (by omega), Nat.mod_eq_of_lt (by omega)]
    omega
  · exact Nat.mod_eq_of_lt (by omega)

/-- What a write to an element of a list does to every read inside the list. -/
theorem getD_set_of_lt {α : Type} (l : List α) {j k : Nat} (hj : j < l.length) (v d : α) :
    (l.set k v).getD j d = if k = j then v else l.getD j d := by
  simp only [List.getD_eq_getElem?_getD, List.getElem?_set]
  split_ifs with heq hlt
  · rfl
  · omega
  · rfl

/-! ### The invariant under the writes of a command -/

namespace State

variable {s : State}

theorem Inv.takeInput (h : s.Inv) (rest : List HostInput) : { s with inputs := rest }.Inv :=
  { h with }

theorem Inv.respondWith (h : s.Inv) (ok : Bool) (data : Word) (events : List Event) :
    (s.respondWith ok data events).Inv :=
  { h with }

/-- The bits 0 and 2 of `FAULT` are set together, by `E_DESC`, and no fault sets bit 6 or 7. -/
theorem Inv.raise (h : s.Inv) (e : ErrCode) : (s.raise e).Inv where
  __ := h
  haltBit := by
    have hbits : e.faultBits.getLsbD 0 = e.faultBits.getLsbD 2 := by cases e <;> rfl
    simp only [raise_faultReg, recordFault, BitVec.getLsbD_or, h.haltBit, hbits]
  reservedBits := by
    have hbits : e.faultBits.getLsbD 6 = false ∧ e.faultBits.getLsbD 7 = false := by
      cases e <;> exact ⟨rfl, rfl⟩
    obtain ⟨h6, h7⟩ := hbits
    obtain ⟨hs6, hs7⟩ := h.reservedBits
    simp only [raise_faultReg, recordFault, BitVec.getLsbD_or, h6, h7, hs6, hs7, Bool.or_self, and_self]

theorem Inv.hardwareReset (h : s.Inv) : s.hardwareReset.Inv :=
  { resetWith_inv h.params with }

theorem Inv.writeArr (h : s.Inv) {a : Nat} (ha : a < s.params.nA) (v : Byte) : (s.writeArr a v).Inv :=
  { h with arrForm := s.arr.wf_put v ha h.arrForm }

theorem Inv.writeSrc (h : s.Inv) {a : Nat} (ha : a < s.params.nS) (v : Byte) : (s.writeSrc a v).Inv :=
  { h with srcForm := s.src.wf_put v ha h.srcForm }

theorem Inv.writeSpace (h : s.Inv) {space : BitVec 4} {addr : Half}
    (hin : s.outsideSpace space addr = false) (v : Byte) : (s.writeSpace space addr v).Inv := by
  simp only [outsideSpace, decide_eq_false_iff_not, Nat.not_le] at hin
  unfold State.writeSpace
  split_ifs at hin ⊢
  · exact h.writeArr hin v
  · exact h.writeSrc hin v

theorem byteIndex_lt (s : State) {g : Half} (hin : s.outsideArr g = false) : byteIndex g < s.params.nA := by
  simpa [outsideArr] using hin

theorem Inv.arrStore (h : s.Inv) {a n : Nat} (hn : a + n ≤ s.params.nA) (v : Word) :
    (s.arrStore a n v).Inv := by
  induction n generalizing v with
  | zero => exact h
  | succ n ih =>
    refine (ih (by omega) (v >>> 8)).writeArr ?_ _
    obtain ⟨m, hm⟩ := s.arrStore_changes_only_arr a n (v >>> 8)
    rw [hm]
    exact Nat.lt_of_succ_le hn

theorem Inv.writeRange (h : s.Inv) {start stop : Half} (hrange : malformedRange start stop = false)
    (hin : s.outsideArr stop = false) (value : Half) : (s.writeRange start stop value).Inv := by
  obtain ⟨hle, hspan⟩ := byteIndex_of_goodRange hrange
  have hstop := s.byteIndex_lt hin
  unfold State.writeRange
  dsimp only
  split
  next => exact h.writeArr (by omega) _
  next htwo =>
    have : byteIndex start + 2 ≤ s.params.nA := by unfold rangeSpan at htwo; omega
    exact h.arrStore this _
  next hone htwo =>
    have hne_one : byteIndex stop - byteIndex start + 1 ≠ 1 := hone
    have hne_two : byteIndex stop - byteIndex start + 1 ≠ 2 := htwo
    have hlast : byteIndex start + 2 < s.params.nA := by omega
    exact ((h.writeArr (by omega) _).writeArr (Nat.lt_of_succ_lt hlast) _).writeArr hlast _

theorem Inv.writeBit (h : s.Inv) {g : Half} (hin : s.outsideArr g = false) (bit : BitVec 1) :
    (s.writeBit g bit).Inv :=
  h.writeArr (s.byteIndex_lt hin) _

theorem Inv.setCtx (h : s.Inv) (k : BitVec 4) {c : Context} (hc : c.valid = true → c.Inv s.params.nS) :
    (s.setCtx k c).Inv where
  __ := h
  contexts := by simpa using h.contexts
  encoders c' hmem := by
    obtain hold | rfl := List.mem_or_eq_of_mem_set hmem
    · exact h.encoders c' hold
    · exact hc

theorem Inv.setFlags (h : s.Inv) (k : Nat) (f : Byte) : { s with qf := s.qf.set k f }.Inv where
  __ := h
  flags := by simpa using h.flags

/-! ### The queue under an append, a pop and a reset (rules R40, R42 and R43) -/

theorem Inv.slot_eq_ite (h : s.Inv) {i : Nat} (hi : i ≤ s.params.c) :
    s.slot i = if s.ri.toNat + i < s.params.c then s.ri.toNat + i else s.ri.toNat + i - s.params.c := by
  have hhead := h.head
  unfold slot
  split_ifs with hlt
  · exact Nat.mod_eq_of_lt hlt
  · rw [Nat.mod_eq_sub_mod (by omega), Nat.mod_eq_of_lt (by omega)]

theorem Inv.pushBack (h : s.Inv) (hroom : s.queueFull = false) (v : Handle) (f : Byte) :
    (s.pushBack v f).Inv := by
  have hne : s.uc.toNat ≠ s.params.c := by simpa [queueFull] using hroom
  have hlt : s.uc.toNat < s.params.c := lt_of_le_of_ne h.fill hne
  obtain ⟨-, -, -, -, hmax⟩ := h.params
  have huc : (s.pushBack v f).uc.toNat = s.uc.toNat + 1 := by
    rw [pushBack_uc, BitVec.toNat_add_of_lt (by simp; omega)]
    rfl
  exact {
    h with
    handles := by simpa using h.handles
    flags := by simpa using h.flags
    fill := huc ▸ hlt
    emptySlots := fun j hj hfree => by
      rw [pushBack_params] at hj
      have hhead := h.head
      rw [Occupied, huc, pushBack_ri, pushBack_params, offset_eq_ite hj hhead] at hfree
      have hslot : s.slot s.uc.toNat ≠ j := by
        rw [h.slot_eq_ite hlt.le]
        split_ifs at hfree ⊢ <;> omega
      have hold : ¬ s.Occupied j := by
        rw [Occupied, offset_eq_ite hj hhead]
        omega
      rw [handleIn, pushBack_qh, getD_set_of_lt _ (h.handles ▸ hj), if_neg hslot]
      exact h.emptySlots j hj hold }

theorem Inv.popFront (h : s.Inv) (hfilled : s.queueEmpty = false) : s.popFront.Inv := by
  have hne : s.uc ≠ 0#16 := by simpa [queueEmpty] using hfilled
  have huc : s.popFront.uc.toNat = s.uc.toNat - 1 := by
    rw [popFront_uc]
    bv_omega
  have hhead := h.head
  have hfill := h.fill
  obtain ⟨-, -, -, -, hmax⟩ := h.params
  have hone : 1 ≤ s.params.c := Nat.one_le_of_lt hhead
  have hslot : s.slot 1 < s.params.c := Nat.mod_lt _ hone
  have hri : s.popFront.ri.toNat = s.slot 1 := by
    rw [popFront_ri, toNat_ofNat_of_lt (by omega)]
  exact {
    h with
    handles := by simpa using h.handles
    head := hri ▸ hslot
    fill := by
      rw [huc, popFront_params]
      omega
    emptySlots := fun j hj hfree => by
      rw [popFront_params] at hj
      rw [handleIn, popFront_qh, getD_set_of_lt _ (h.handles ▸ hj)]
      split_ifs with heq
      · rfl
      · refine h.emptySlots j hj ?_
        rw [Occupied, hri, huc, popFront_params, offset_eq_ite hj hslot, h.slot_eq_ite hone] at hfree
        rw [Occupied, offset_eq_ite hj hhead]
        split_ifs at hfree ⊢ <;> omega }

theorem Inv.clearQueue (h : s.Inv) : s.clearQueue.Inv where
  __ := h
  handles := by simpa using h.handles
  flags := by simpa using h.flags
  head := Nat.zero_lt_of_lt h.head
  fill := Nat.zero_le _
  emptySlots j _ _ := List.getD_map (l := s.qh) (d := emptyHandle) fun _ => emptyHandle

end State

/-! ### The encoder's invariant under CINIT and CNEXT (rule R23) -/

theorem newEncoder_inv {nS : Nat} {base len : Half} (hview : base.toNat + len.toNat ≤ nS) :
    (newEncoder base len).Inv nS where
  view := hview
  cursor := Nat.zero_le _
  remaining := Nat.zero_le _
  balance := rfl
  finished h := by cases h

namespace Context

variable {nS : Nat} {c : Context}

theorem Inv.terminate (h : c.Inv nS) : (terminate c).Inv nS := by
  obtain ⟨heq, hbr, hrc, hcz⟩ | ⟨heq, -⟩ := terminate_cases c
  · rw [heq]
    exact { h with finished := fun _ => ⟨hbr, hrc, hcz⟩ }
  · rwa [heq]

/-- A Scan puts the literal cursor where the read cursor was; the literals, and the zero if it consumed one, make up the
advance of the read cursor. -/
theorem Inv.scanned (h : c.Inv nS) (hfin : c.fin = false) {rc : Half} {br : Byte} {cz : Bool}
    (hbr : br.toNat ≤ 254) (hrc : rc.toNat = c.rc.toNat + br.toNat + cz.toNat)
    (hview : rc.toNat ≤ c.len.toNat) : { c with lc := c.rc, br := br, rc := rc, cz := cz }.Inv nS where
  view := h.view
  cursor := hview
  remaining := hbr
  balance := hrc.symm
  finished hf := by simp [hfin] at hf

theorem Inv.scan (h : c.Inv nS) (hfin : c.fin = false) (s : State) : (s.scan c).2.Inv nS := by
  obtain ⟨hcap, hview⟩ : s.scanRun c ≤ 254 ∧ s.scanRun c ≤ c.len.toNat - c.rc.toNat := s.scanRun_le c
  have hcursor := h.cursor
  have hlen := c.len.isLt
  have hbr : (BitVec.ofNat 8 (s.scanRun c)).toNat = s.scanRun c := toNat_ofNat_of_lt (by omega)
  unfold State.scan
  obtain ⟨-, hin, heq⟩ | ⟨hrun, heq⟩ | ⟨hne, hend, heq⟩ := scanOutcome_cases c (s.scanRun c) <;> rw [heq]
  · have hrc : (BitVec.ofNat 16 (c.rc.toNat + s.scanRun c + 1)).toNat = c.rc.toNat + s.scanRun c + 1 :=
      toNat_ofNat_of_lt (by omega)
    exact h.scanned hfin (by rwa [hbr]) (by rw [hrc, hbr, Bool.toNat_true]) (by rwa [hrc])
  · have hrc : (BitVec.ofNat 16 (c.rc.toNat + scanCap)).toNat = c.rc.toNat + s.scanRun c := by
      rw [← hrun]
      exact toNat_ofNat_of_lt (by omega)
    exact h.scanned hfin (by rwa [hbr]) (by rw [hrc, hbr, Bool.toNat_false, add_zero]) (by omega)
  · simp only [scanCap] at hne hend
    exact h.scanned hfin (by rwa [hbr]) (by rw [hbr, Bool.toNat_false]; omega) le_rfl

/-- An Emit moves the literal cursor on by one and leaves one literal less. -/
theorem Inv.emit (h : c.Inv nS) (hfin : c.fin = false) (hbr : c.br ≠ 0#8) (s : State) :
    (s.emit c).2.Inv nS where
  view := h.view
  cursor := h.cursor
  remaining := by
    have := h.remaining
    simp only [State.emit]
    bv_omega
  balance := by
    have := h.balance
    have := h.cursor
    simp only [State.emit]
    bv_omega
  finished hf := absurd hf (by simp [State.emit, hfin])

theorem Inv.nextByte (h : c.Inv nS) (hfin : c.fin = false) (s : State) : (s.nextByte c).2.Inv nS := by
  unfold State.nextByte
  dsimp only
  split_ifs with hbr
  · exact (h.scan hfin s).terminate
  · exact (h.emit hfin hbr s).terminate

end Context

/-! ### The invariant under a step -/

namespace State

variable {s : State} {k : BitVec 4}

theorem getCtx_mem_of_valid (hvalid : (s.getCtx k).valid = true) : s.getCtx k ∈ s.ctx := by
  unfold getCtx at hvalid ⊢
  rw [List.getD_eq_getElem?_getD] at hvalid ⊢
  cases hget : s.ctx[k.toNat]? with
  | none => simp [hget, Context.empty] at hvalid
  | some c => exact List.mem_of_getElem? hget

theorem valid_of_noEncoder (h : s.noEncoder k = false) : (s.getCtx k).valid = true := by
  simpa [noEncoder] using h

theorem Inv.getCtx (h : s.Inv) (hvalid : (s.getCtx k).valid = true) : (s.getCtx k).Inv s.params.nS :=
  h.encoders _ (getCtx_mem_of_valid hvalid) hvalid

theorem Inv.effect (h : s.Inv) {i : Instr} {u : State} (hu : Effect s i u) : u.Inv := by
  cases hu with
  | unchanged => exact h
  | mwr _ hin => exact h.writeSpace hin _
  | bwr hrange hin => exact h.writeRange hrange hin _
  | bput hin => exact h.writeBit hin _
  | cinit _ hview =>
    exact h.setCtx _ fun _ => newEncoder_inv (by simpa [outsideSrc] using hview)
  | cnext _ hvalid hfin =>
    exact h.setCtx _ fun _ => (h.getCtx (valid_of_noEncoder hvalid)).nextByte hfin s
  | ccopy => exact h.setCtx _ h.getCtx
  | qappend hroom => exact h.pushBack hroom _ _
  | qpop hfilled => exact h.popFront hfilled
  | qsetf => exact h.setFlags _ _
  | qreset => exact h.clearQueue

end State

/-- Settles O13: by what a step can make of a state; the effect of a command keeps the invariant because its checks hold
its writes inside the block. -/
theorem stepKeepsInvariant : Obligations.StepKeepsInvariant := by
  unfold Obligations.StepKeepsInvariant
  intro s t h hstep
  obtain rfl | ⟨cut, rest, -, rfl⟩ | ⟨rest, e, rfl⟩ | ⟨w, i, rest, -, -, u, ok, data, events, hu, rfl⟩ :=
    step_effected hstep
  · exact ⟨h, rfl⟩
  · exact ⟨(h.takeInput rest).hardwareReset, rfl⟩
  · exact ⟨(h.takeInput rest).raise e, rfl⟩
  · obtain ⟨hparams, -⟩ := hu.params_faultReg_eq
    exact ⟨((h.takeInput rest).effect hu).respondWith ok data events, hparams⟩

/-! ### The pending literals (rule R23 (vi)) -/

namespace State

variable {s : State} {c : Context}

/-- The literals the context has still to emit are non-zero. -/
def PendingNonzero (s : State) (c : Context) : Prop :=
  ∀ i < c.br.toNat, s.srcByte (c.base.toNat + c.lc.toNat + i) ≠ 0#8

theorem literalsNonzero_iff :
    s.LiteralsNonzero ↔ ∀ c ∈ s.ctx, c.valid = true → s.PendingNonzero c := Iff.rfl

/-- After hardware reset no context is valid. -/
theorem hardwareReset_literalsNonzero (s : State) : s.hardwareReset.LiteralsNonzero := by
  intro c hc hvalid
  rw [Context.empty_of_mem_resetWith hc] at hvalid
  cases hvalid

theorem LiteralsNonzero.takeInput (h : s.LiteralsNonzero) (rest : List HostInput) :
    { s with inputs := rest }.LiteralsNonzero := h

theorem LiteralsNonzero.respondWith (h : s.LiteralsNonzero) (ok : Bool) (data : Word)
    (events : List Event) : (s.respondWith ok data events).LiteralsNonzero := h

theorem pendingNonzero_newEncoder (base len : Half) : s.PendingNonzero (newEncoder base len) :=
  fun _ hi => absurd hi (Nat.not_lt_zero _)

theorem PendingNonzero.terminate (h : s.PendingNonzero c) : s.PendingNonzero (terminate c) := by
  obtain ⟨heq, -⟩ | ⟨heq, -⟩ := terminate_cases c <;> rw [heq] <;> exact h

/-- What a Scan leaves to emit is the run it counted. -/
theorem pendingNonzero_scan : s.PendingNonzero (s.scan c).2 := by
  have hrun : ∀ i < s.scanRun c, s.srcByte (c.base.toNat + c.rc.toNat + i) ≠ 0#8 :=
    fun i hi => s.nonzeroRun_nonzero _ _ hi
  have hbr : (BitVec.ofNat 8 (s.scanRun c)).toNat ≤ s.scanRun c := by
    rw [BitVec.toNat_ofNat]
    exact Nat.mod_le _ _
  unfold scan
  obtain ⟨-, -, heq⟩ | ⟨-, heq⟩ | ⟨-, -, heq⟩ := scanOutcome_cases c (s.scanRun c) <;> rw [heq] <;>
    exact fun i hi => hrun i (hi.trans_le hbr)

/-- What an Emit leaves to emit are the literals after the first. -/
theorem PendingNonzero.emit (h : s.PendingNonzero c) (hinv : c.Inv s.params.nS) (hbr : c.br ≠ 0#8) :
    s.PendingNonzero (s.emit c).2 := by
  intro i hi
  simp only [State.emit] at hi ⊢
  have hcursor := hinv.cursor
  have hbalance := hinv.balance
  have hlen := c.len.isLt
  have hlc : (c.lc + 1#16).toNat = c.lc.toNat + 1 := by bv_omega
  have hleft : (c.br - 1#8).toNat = c.br.toNat - 1 := by bv_omega
  rw [hlc, show c.base.toNat + (c.lc.toNat + 1) + i = c.base.toNat + c.lc.toNat + (i + 1) by omega]
  exact h (i + 1) (by omega)

theorem PendingNonzero.nextByte (h : s.PendingNonzero c) (hinv : c.Inv s.params.nS) :
    s.PendingNonzero (s.nextByte c).2 := by
  unfold State.nextByte
  dsimp only
  split_ifs with hbr
  · exact pendingNonzero_scan.terminate
  · exact (h.emit hinv hbr).terminate

theorem LiteralsNonzero.setCtx (h : s.LiteralsNonzero) (k : BitVec 4)
    (hc : c.valid = true → s.PendingNonzero c) : (s.setCtx k c).LiteralsNonzero := by
  refine literalsNonzero_iff.mpr fun c' hmem => ?_
  obtain hold | rfl := List.mem_or_eq_of_mem_set hmem
  · exact literalsNonzero_iff.mp h c' hold
  · exact hc

theorem LiteralsNonzero.getCtx (h : s.LiteralsNonzero) {k : BitVec 4}
    (hvalid : (s.getCtx k).valid = true) : s.PendingNonzero (s.getCtx k) :=
  literalsNonzero_iff.mp h _ (getCtx_mem_of_valid hvalid) hvalid

/-- A context with a literal to emit is active, and the literal lies in its view (log entry 13). -/
theorem active_of_pending {nS i : Nat} (hinv : c.Inv nS) (hvalid : c.valid = true) (hi : i < c.br.toNat) :
    c.Active ∧ c.lc.toNat + i < c.len.toNat := by
  have hcursor := hinv.cursor
  have hbalance := hinv.balance
  refine ⟨⟨hvalid, ?_, ?_⟩, by omega⟩
  · by_contra hfin
    obtain ⟨hbr, -⟩ := hinv.finished (by simpa using hfin)
    simp [hbr] at hi
  · intro hrc
    simp [hrc] at hbalance
    omega

/-- A byte written outside every active view is no pending literal. -/
theorem LiteralsNonzero.writeSpace (h : s.LiteralsNonzero) (hinv : s.Inv) {space : BitVec 4} {addr : Half}
    {data : Byte} (hspace : reservedSpace space = false)
    (hhost : ¬ WritesActiveView s (.mwr space addr data)) :
    (s.writeSpace space addr data).LiteralsNonzero := by
  unfold State.writeSpace
  split_ifs with harr
  · exact h
  · have hsrc : space = 1#4 := by
      simp only [reservedSpace, Bool.not_eq_false', decide_eq_true_eq] at hspace
      bv_omega
    intro c hc hvalid i hi
    obtain ⟨hactive, hview⟩ := active_of_pending (hinv.encoders c hc hvalid) hvalid hi
    have hne : c.base.toNat + c.lc.toNat + i ≠ addr.toNat := fun heq =>
      hhost ⟨hsrc, c, hc, hactive, by omega, by omega⟩
    rw [srcByte_writeSrc, if_neg hne]
    exact h c hc hvalid i hi

theorem LiteralsNonzero.effect (h : s.LiteralsNonzero) (hinv : s.Inv) {i : Instr} {u : State}
    (hu : Effect s i u) (hhost : ¬ WritesActiveView s i) : u.LiteralsNonzero := by
  cases hu with
  | mwr hspace => exact h.writeSpace hinv hspace hhost
  | @bwr start stop value =>
    obtain ⟨m, hm⟩ := s.writeRange_changes_only_arr start stop value
    rw [hm]
    exact h
  | cinit => exact h.setCtx _ fun _ => pendingNonzero_newEncoder _ _
  | cnext _ hvalid =>
    have hv := valid_of_noEncoder hvalid
    exact h.setCtx _ fun _ => (h.getCtx hv).nextByte (hinv.getCtx hv)
  | ccopy => exact h.setCtx _ h.getCtx
  | unchanged | bput | qappend | qpop | qsetf | qreset => exact h

end State

/-- Settles O15: a literal comes to be pending by a Scan that has just read it as non-zero, and only an MWR into the view
of an active context could write it after that. -/
theorem stepKeepsLiteralsNonzero : Obligations.StepKeepsLiteralsNonzero := by
  unfold Obligations.StepKeepsLiteralsNonzero
  intro s t hinv h hhost hstep
  obtain rfl | ⟨cut, rest, -, rfl⟩ | ⟨rest, e, rfl⟩ | ⟨w, i, rest, hin, hd, u, ok, data, events, hu, rfl⟩ :=
    step_effected hstep
  · exact h
  · exact State.hardwareReset_literalsNonzero _
  · exact h
  · have heff := (h.takeInput rest).effect (hinv.takeInput rest) hu (hhost w i rest hin hd)
    exact heff.respondWith ok data events

end Sys2Proof.Machine
end

section
/-! PROOFS of the statements of 20_memory.md. Which effects write which storage space; that a write done again changes
nothing; and that a read or a memory write, given again at once, answers the same and changes nothing more. -/

namespace Sys2Proof.Machine

open Sys2Proof.Config Sys2Proof.Claims

/-! ### Who writes what (rule R60) -/

/-- A space code that is not reserved is 0 or 1 (rule R93). -/
theorem space_eq_of_not_reserved {space : BitVec 4} (hgood : reservedSpace space = false) :
    space = 0#4 ∨ space = 1#4 := by
  simp only [reservedSpace, Bool.not_eq_false', decide_eq_true_eq] at hgood
  bv_omega

namespace Effect

variable {i : Instr} {s u : State}

theorem arr_eq (hu : Effect s i u) (hbwr : ∀ a b v, i ≠ .bwr a b v) (hbput : ∀ o b, i ≠ .bput o b)
    (hmwr : ∀ a d, i ≠ .mwr 0#4 a d) : u.arr = s.arr := by
  cases hu with
  | bwr => exact absurd rfl (hbwr _ _ _)
  | bput => exact absurd rfl (hbput _ _)
  | mwr hspace =>
    obtain rfl | rfl := space_eq_of_not_reserved hspace
    · exact absurd rfl (hmwr _ _)
    · rfl
  | _ => rfl

theorem src_eq (hu : Effect s i u) (hmwr : ∀ a d, i ≠ .mwr 1#4 a d) : u.src = s.src := by
  cases hu with
  | mwr hspace =>
    obtain rfl | rfl := space_eq_of_not_reserved hspace
    · rfl
    · exact absurd rfl (hmwr _ _)
  | @bwr start stop value =>
    obtain ⟨m, hm⟩ := s.writeRange_changes_only_arr start stop value
    rw [hm]
  | _ => rfl

theorem qh_eq (hu : Effect s i u) (happend : ∀ h f, i ≠ .qappend h f) (hpop : i ≠ .qpop)
    (hreset : i ≠ .qreset) : u.qh = s.qh := by
  cases hu with
  | qappend => exact absurd rfl (happend _ _)
  | qpop => exact absurd rfl hpop
  | qreset => exact absurd rfl hreset
  | mwr hspace => obtain rfl | rfl := space_eq_of_not_reserved hspace <;> rfl
  | @bwr start stop value =>
    obtain ⟨m, hm⟩ := s.writeRange_changes_only_arr start stop value
    rw [hm]
  | _ => rfl

theorem qf_eq (hu : Effect s i u) (happend : ∀ h f, i ≠ .qappend h f) (hsetf : ∀ f, i ≠ .qsetf f)
    (hreset : i ≠ .qreset) : u.qf = s.qf := by
  cases hu with
  | qappend => exact absurd rfl (happend _ _)
  | qsetf => exact absurd rfl (hsetf _)
  | qreset => exact absurd rfl hreset
  | mwr hspace => obtain rfl | rfl := space_eq_of_not_reserved hspace <;> rfl
  | @bwr start stop value =>
    obtain ⟨m, hm⟩ := s.writeRange_changes_only_arr start stop value
    rw [hm]
  | _ => rfl

end Effect

/-- Settles O23: a fault writes no storage space, and each effect writes only the spaces of its command. -/
theorem spacesWrittenOnlyBy : Obligations.SpacesWrittenOnlyBy := by
  unfold Obligations.SpacesWrittenOnlyBy
  intro i s t h
  obtain ⟨u, ok, data, events, hu, rfl⟩ | ⟨e, rfl⟩ := exec_effected h
  · exact ⟨hu.arr_eq, hu.src_eq, hu.qh_eq, hu.qf_eq⟩
  · exact ⟨fun _ _ _ => rfl, fun _ => rfl, fun _ _ _ => rfl, fun _ _ _ => rfl⟩

/-! ### A byte memory written more than once

The memory need not be in canonical form. -/

namespace Memory

theorem put_cons_of_lt {a k : Nat} (hlt : k < a) (b v : Byte) (m : Memory) :
    Memory.put ((a, b) :: m) k v = (k, v) :: (a, b) :: m := by
  simp [put, hlt]

@[simp] theorem put_cons_same (a : Nat) (b v : Byte) (m : Memory) :
    Memory.put ((a, b) :: m) a v = (a, v) :: m := by
  simp [put]

theorem put_cons_of_gt {a k : Nat} (hgt : a < k) (b v : Byte) (m : Memory) :
    Memory.put ((a, b) :: m) k v = (a, b) :: m.put k v := by
  simp [put, hgt.not_gt, hgt.ne']

theorem put_put_same (m : Memory) (k : Nat) (v : Byte) : (m.put k v).put k v = m.put k v := by
  induction m with
  | nil => exact put_cons_same k v v []
  | cons e m ih =>
    obtain ⟨a, b⟩ := e
    obtain hlt | rfl | hgt := lt_trichotomy k a
    · simp [put_cons_of_lt hlt]
    · simp
    · simp [put_cons_of_gt hgt, ih]

theorem put_comm_of_lt (m : Memory) {j k : Nat} (hjk : j < k) (v w : Byte) :
    (m.put j v).put k w = (m.put k w).put j v := by
  induction m with
  | nil => exact (put_cons_of_gt hjk v w []).trans (put_cons_of_lt hjk w v []).symm
  | cons e m ih =>
    obtain ⟨a, b⟩ := e
    obtain hja | rfl | haj := lt_trichotomy j a
    · rw [put_cons_of_lt hja, put_cons_of_gt hjk]
      obtain hka | rfl | hak := lt_trichotomy k a
      · rw [put_cons_of_lt hka, put_cons_of_lt hjk]
      · rw [put_cons_same, put_cons_of_lt hjk]
      · rw [put_cons_of_gt hak, put_cons_of_lt hja]
    · simp [put_cons_of_gt hjk]
    · simp [put_cons_of_gt haj, put_cons_of_gt (haj.trans hjk), ih]

end Memory

namespace State

variable (s : State)

theorem writeArr_writeArr_same (a : Nat) (v : Byte) : (s.writeArr a v).writeArr a v = s.writeArr a v := by
  simp only [writeArr, Memory.put_put_same]

theorem writeSrc_writeSrc_same (a : Nat) (v : Byte) : (s.writeSrc a v).writeSrc a v = s.writeSrc a v := by
  simp only [writeSrc, Memory.put_put_same]

theorem writeArr_comm_of_lt {a b : Nat} (hlt : a < b) (v w : Byte) :
    (s.writeArr a v).writeArr b w = (s.writeArr b w).writeArr a v := by
  simp only [writeArr, s.arr.put_comm_of_lt hlt]

theorem writeSpace_again (space : BitVec 4) (addr : Half) (v : Byte) :
    (s.writeSpace space addr v).writeSpace space addr v = s.writeSpace space addr v := by
  simp only [writeSpace]
  split
  · exact s.writeArr_writeArr_same _ _
  · exact s.writeSrc_writeSrc_same _ _

theorem writeSpace_respond (space : BitVec 4) (addr : Half) (v : Byte) (ok : Bool) (data : Word) :
    (s.respond ok data).writeSpace space addr v = (s.writeSpace space addr v).respond ok data := by
  simp only [writeSpace]
  split <;> rfl

/-! ### Several bytes of `ARR` (rule R64) -/

theorem arrStore_writeArr {a n k : Nat} (hk : a + n ≤ k) (v : Word) (b : Byte) :
    (s.writeArr k b).arrStore a n v = (s.arrStore a n v).writeArr k b := by
  induction n generalizing v with
  | zero => rfl
  | succ n ih =>
    have hlt : a + n < k := hk
    rw [arrStore, arrStore, ih hlt.le, writeArr_comm_of_lt _ hlt]

theorem arrLoad_writeArr {a n k : Nat} (hk : a + n ≤ k) (b : Byte) :
    (s.writeArr k b).arrLoad a n = s.arrLoad a n := by
  induction n with
  | zero => rfl
  | succ n ih =>
    have hne : a + n ≠ k := by omega
    rw [arrLoad, arrLoad, ih (by omega), arrByte_writeArr, if_neg hne]

theorem arrStore_arrStore_same (a n : Nat) (v : Word) :
    (s.arrStore a n v).arrStore a n v = s.arrStore a n v := by
  induction n generalizing v with
  | zero => rfl
  | succ n ih =>
    rw [arrStore, arrStore, arrStore_writeArr _ le_rfl, ih, writeArr_writeArr_same]

/-- A store of `n` bytes writes the low `8 n` bits of its value and no other. -/
theorem arrStore_congr {a n : Nat} {v w : Word} (h : ∀ j < 8 * n, v.getLsbD j = w.getLsbD j) :
    s.arrStore a n v = s.arrStore a n w := by
  induction n generalizing v w with
  | zero => rfl
  | succ n ih =>
    have hlast : v.setWidth 8 = w.setWidth 8 := by
      refine BitVec.eq_of_getLsbD_eq fun j hj => ?_
      simp [hj, h j (by omega)]
    have hrest : s.arrStore a n (v >>> 8) = s.arrStore a n (w >>> 8) :=
      ih fun j hj => by simpa using h (8 + j) (by omega)
    rw [arrStore, arrStore, hlast, hrest]

/-- A load of the bytes a store has written gives its value back, as far as it was stored. -/
theorem getLsbD_arrLoad_arrStore (a n : Nat) (v : Word) {j : Nat} (hj : j < 8 * n) :
    ((s.arrStore a n v).arrLoad a n).getLsbD j = v.getLsbD j := by
  induction n generalizing v j with
  | zero => omega
  | succ n ih =>
    rw [arrStore, arrLoad, arrLoad_writeArr _ le_rfl, arrByte_writeArr, if_pos rfl]
    obtain hlow | hhigh := Nat.lt_or_ge j 8
    · have hword : j < 32 := by omega
      simp [hlow, hword]
    · have hrest := ih (v >>> 8) (j := j - 8) (by omega)
      rw [BitVec.getLsbD_ushiftRight, Nat.add_sub_cancel' hhigh] at hrest
      have hnot : ¬ j < 8 := by omega
      obtain hword | hbeyond := Nat.lt_or_ge j 32
      · simpa [hnot, hword, ← BitVec.getLsbD_eq_getElem] using hrest
      · simp [BitVec.getLsbD_of_ge _ _ hbeyond]

end State

/-! ### A bit-range or a bit of `ARR` written more than once (rules R136 and R137) -/

theorem and_or_again {n : Nat} (b keep x : BitVec n) :
    ((b &&& keep ||| x) &&& keep ||| x) = (b &&& keep ||| x) := by
  refine BitVec.eq_of_getLsbD_eq fun j _ => ?_
  simp only [BitVec.getLsbD_or, BitVec.getLsbD_and]
  cases keep.getLsbD j <;> simp

namespace State

/-- A range write puts bits `x` into bytes of which it keeps the bits `keep`: into one byte, into a word of two, or into
the first and the last of three (rule R136). -/
theorem writeRange_cases (start stop value : Half) :
    (∃ keep x, ∀ s : State, s.writeRange start stop value =
      s.writeArr (byteIndex start) (s.arrByte (byteIndex start) &&& keep ||| x)) ∨
    (∃ keep x, ∀ s : State, s.writeRange start stop value =
      s.arrStore (byteIndex start) 2 (s.arrLoad (byteIndex start) 2 &&& keep ||| x)) ∨
    ∃ keep x middle keep' x', ∀ s : State, s.writeRange start stop value =
      ((s.writeArr (byteIndex start) (s.arrByte (byteIndex start) &&& keep ||| x)).writeArr
        (byteIndex start + 1) middle).writeArr (byteIndex start + 2)
          (s.arrByte (byteIndex start + 2) &&& keep' ||| x') := by
  unfold writeRange
  match rangeSpan start stop with
  | 1 => exact .inl ⟨_, _, fun _ => rfl⟩
  | 2 => exact .inr (.inl ⟨_, _, fun _ => rfl⟩)
  | 0 | _ + 3 => exact .inr (.inr ⟨_, _, _, _, _, fun _ => rfl⟩)

variable (s : State)

theorem writeArr_merge_again (a : Nat) (keep x : Byte) {u : State}
    (hu : u = s.writeArr a (s.arrByte a &&& keep ||| x)) :
    u.writeArr a (u.arrByte a &&& keep ||| x) = u := by
  rw [hu, arrByte_writeArr, if_pos rfl, and_or_again, writeArr_writeArr_same]

theorem writeArr_three_merge_again (a : Nat) (keep x middle keep' x' : Byte) {u : State}
    (hu : u = ((s.writeArr a (s.arrByte a &&& keep ||| x)).writeArr (a + 1) middle).writeArr (a + 2)
      (s.arrByte (a + 2) &&& keep' ||| x')) :
    ((u.writeArr a (u.arrByte a &&& keep ||| x)).writeArr (a + 1) middle).writeArr (a + 2)
      (u.arrByte (a + 2) &&& keep' ||| x') = u := by
  have hfirst : u.arrByte a = s.arrByte a &&& keep ||| x := by simp [hu, arrByte_writeArr]
  have hthird : u.arrByte (a + 2) = s.arrByte (a + 2) &&& keep' ||| x' := by
    simp [hu, arrByte_writeArr]
  rw [hfirst, hthird, and_or_again, and_or_again, hu]
  have h01 : a < a + 1 := by omega
  have h02 : a < a + 2 := by omega
  have h12 : a + 1 < a + 2 := by omega
  rw [← writeArr_comm_of_lt _ h02, ← writeArr_comm_of_lt _ h01, writeArr_writeArr_same,
    ← writeArr_comm_of_lt _ h12, writeArr_writeArr_same, writeArr_writeArr_same]

theorem writeBit_again (g : Half) (bit : BitVec 1) :
    (s.writeBit g bit).writeBit g bit = s.writeBit g bit :=
  s.writeArr_merge_again _ _ _ rfl

theorem arrStore_merge_again (a n : Nat) (keep x : Word) {u : State}
    (hu : u = s.arrStore a n (s.arrLoad a n &&& keep ||| x)) :
    u.arrStore a n (u.arrLoad a n &&& keep ||| x) = u := by
  have hsame : ∀ j < 8 * n, (u.arrLoad a n &&& keep ||| x).getLsbD j =
      (s.arrLoad a n &&& keep ||| x).getLsbD j := by
    intro j hj
    rw [← and_or_again (s.arrLoad a n), BitVec.getLsbD_or, BitVec.getLsbD_and, hu,
      getLsbD_arrLoad_arrStore _ _ _ _ hj, ← BitVec.getLsbD_and, ← BitVec.getLsbD_or]
  rw [u.arrStore_congr hsame, hu, arrStore_arrStore_same]

theorem writeRange_again (start stop value : Half) :
    (s.writeRange start stop value).writeRange start stop value = s.writeRange start stop value := by
  obtain ⟨keep, x, hw⟩ | ⟨keep, x, hw⟩ | ⟨keep, x, middle, keep', x', hw⟩ :=
    writeRange_cases start stop value
  · rw [hw, s.writeArr_merge_again _ _ _ (hw s)]
  · rw [hw, s.arrStore_merge_again _ _ _ _ (hw s)]
  · rw [hw, s.writeArr_three_merge_again _ _ _ _ _ _ (hw s)]

theorem writeRange_respond (start stop value : Half) (ok : Bool) (data : Word) :
    (s.respond ok data).writeRange start stop value = (s.writeRange start stop value).respond ok data := by
  obtain ⟨keep, x, hw⟩ | ⟨keep, x, hw⟩ | ⟨keep, x, middle, keep', x', hw⟩ :=
    writeRange_cases start stop value <;>
  · rw [hw, hw]
    rfl

end State

/-! ### A command given again at once (rule R70) -/

/-- The command `i` in `s` makes the state `u` and a response, and given again at once it makes the same checks and
the same response and no other change. -/
def Repeatable (i : Instr) (s u : State) : Prop :=
  ∃ checks ok data, (∀ c ∈ checks, c.2 ≠ ErrCode.none) ∧ u.responses = s.responses ∧
    exec i s = s.perform checks (u.respond ok data) ∧
    exec i (u.respond ok data) =
      (u.respond ok data).perform checks ((u.respond ok data).respond ok data)

theorem Repeatable.again {i : Instr} {s t u : State} {r : Response} (hi : Repeatable i s u)
    (h : exec i s = .next t) (hr : t.responses = r :: s.responses) (hnone : r.err = .none) :
    t = { u with responses := r :: s.responses } ∧
      exec i t = .next { t with responses := r :: t.responses } := by
  obtain ⟨checks, ok, data, hchecks, hresp, hfirst, hsecond⟩ := hi
  rw [hfirst] at h
  obtain ⟨heq, hpass⟩ | ⟨e, heq, hfault⟩ := s.perform_cases (u.respond ok data) checks
  · obtain rfl : u.respond ok data = t := by simpa [heq] using h
    obtain rfl : ⟨ok, .none, data, []⟩ = r := by simpa [hresp] using hr
    exact ⟨by rw [← hresp]; rfl, by rw [hsecond, State.perform_of_none hpass]; rfl⟩
  · obtain rfl : s.raise e = t := by simpa [heq] using h
    obtain rfl : ⟨false, e, s.faultData e, []⟩ = r := by simpa using hr
    exact absurd hnone (hchecks _ (firstFault_mem hfault))

theorem State.respond_ite (s : State) (b ok ok' : Bool) (data data' : Word) :
    (if b then s.respond ok data else s.respond ok' data') =
      s.respond (if b then ok else ok') (if b then data else data') := by
  cases b <;> rfl

/-- No check and no answer of a command that only reads depends on the responses before it. -/
theorem repeatable_of_onlyReads {i : Instr} (hi : OnlyReads i) (s : State) : Repeatable i s s := by
  cases i with
  | mrd | brd | bget | cfin | qread | qreadf | qstat =>
    exact ⟨_, _, _, by simp, rfl, rfl, rfl⟩
  | fstat => exact ⟨[], _, _, by simp, rfl, rfl, rfl⟩
  | qpeek | qpeekf =>
    exact ⟨[(s.halted, .halted)], _, _, by simp, rfl, congrArg (State.perform s _) (s.respond_ite _ _ _ _ _),
      congrArg (State.perform _ _) (State.respond_ite _ _ _ _ _ _)⟩
  | _ => exact hi.elim

/-- A command whose effect is the write `write`, which done twice is done once, and which no response disturbs. -/
theorem repeatable_of_write {i : Instr} {checks : State → List (Bool × ErrCode)} {write : State → State}
    (hexec : ∀ u, exec i u = u.perform (checks u) ((write u).respond true 0#32))
    (hfaults : ∀ u, ∀ c ∈ checks u, c.2 ≠ ErrCode.none)
    (hrespond : ∀ u, write (u.respond true 0#32) = (write u).respond true 0#32)
    (s : State) (hresp : (write s).responses = s.responses)
    (hchecks : checks ((write s).respond true 0#32) = checks s) (hagain : write (write s) = write s) :
    Repeatable i s (write s) :=
  ⟨checks s, true, 0#32, hfaults s, hresp, hexec s, by rw [hexec, hchecks, hrespond, hagain]⟩

theorem repeatable_mwr (space : BitVec 4) (addr : Half) (data : Byte) (s : State) :
    Repeatable (.mwr space addr data) s (s.writeSpace space addr data) := by
  obtain ⟨m, m', hm⟩ := s.writeSpace_changes_only_memories space addr data
  exact repeatable_of_write (write := (·.writeSpace space addr data)) (fun _ => rfl) (by simp)
    (fun u => u.writeSpace_respond _ _ _ _ _) s (by rw [hm]) (by rw [hm]; rfl)
    (s.writeSpace_again space addr data)

theorem repeatable_bwr (start stop value : Half) (s : State) :
    Repeatable (.bwr start stop value) s (s.writeRange start stop value) := by
  obtain ⟨m, hm⟩ := s.writeRange_changes_only_arr start stop value
  exact repeatable_of_write (write := (·.writeRange start stop value)) (fun _ => rfl) (by simp)
    (fun u => u.writeRange_respond _ _ _ _ _) s (by rw [hm]) (by rw [hm]; rfl)
    (s.writeRange_again start stop value)

theorem repeatable_bput (offset : Half) (bit : BitVec 1) (s : State) :
    Repeatable (.bput offset bit) s (s.writeBit offset bit) :=
  repeatable_of_write (write := (·.writeBit offset bit)) (fun _ => rfl) (by simp) (fun _ => rfl) s rfl rfl
    (s.writeBit_again offset bit)

/-- Settles O25: a completed read has only its response added, and no answer depends on the responses. -/
theorem readsHaveNoSideEffect : Obligations.ReadsHaveNoSideEffect := by
  unfold Obligations.ReadsHaveNoSideEffect
  exact fun i s t r hi h hr hnone => (repeatable_of_onlyReads hi s).again h hr hnone

/-- Settles O26: each of the three writes, done twice, is done once, whatever the memories list. -/
theorem writesAreIdempotent : Obligations.WritesAreIdempotent := by
  unfold Obligations.WritesAreIdempotent
  rintro i s t r (⟨space, addr, data, rfl⟩ | ⟨start, stop, value, rfl⟩ | ⟨offset, bit, rfl⟩) h hr hnone
  · exact ((repeatable_mwr space addr data s).again h hr hnone).2
  · exact ((repeatable_bwr start stop value s).again h hr hnone).2
  · exact ((repeatable_bput offset bit s).again h hr hnone).2

end Sys2Proof.Machine
end

section
/-! PROOFS of the statements of 30_encoding.md: the command word, a malformed descriptor and the packed response. The fields
of a word and the bits the rows fix, said once; from them that the opcode map selects at most one row, that decoder and
encoder invert each other, and why a word is rejected. -/

namespace Sys2Proof

open Machine Claims

/-! ### Fields of a word (rules R91 to R97) -/

theorem fieldOf_or (lo width : Nat) (v w : Cmd) :
    fieldOf lo width (v ||| w) = fieldOf lo width v ||| fieldOf lo width w :=
  BitVec.extractLsb'_or

theorem fieldOf_and (lo width : Nat) (v w : Cmd) :
    fieldOf lo width (v &&& w) = fieldOf lo width v &&& fieldOf lo width w :=
  BitVec.extractLsb'_and

theorem extractLsb'_fieldOf {lo width lo' width' : Nat} (h : lo' + width' ≤ width) (w : Cmd) :
    (fieldOf lo width w).extractLsb' lo' width' = fieldOf (lo + lo') width' w := by
  refine BitVec.eq_of_getLsbD_eq fun j hj => ?_
  have hin : lo' + j < width := by omega
  rw [BitVec.getLsbD_extractLsb', getLsbD_fieldOf, getLsbD_fieldOf]
  simp [hin, Nat.add_assoc]

theorem fieldOf_place_same {lo width : Nat} (h : lo + width ≤ 64) (v : BitVec width) :
    fieldOf lo width (place lo v) = v := by
  refine BitVec.eq_of_getLsbD_eq fun j hj => ?_
  have hin : lo + j < 64 := by omega
  rw [getLsbD_fieldOf, getLsbD_place]
  simp [hj, hin]

theorem fieldOf_place_disjoint {lo width lo' width' : Nat} (h : lo + width ≤ lo' ∨ lo' + width' ≤ lo)
    (v : BitVec width') : fieldOf lo width (place lo' v) = 0#width := by
  refine BitVec.eq_of_getLsbD_eq fun j hj => ?_
  rw [getLsbD_fieldOf, getLsbD_place]
  obtain hbelow | habove := h
  · have hlow : lo + j < lo' := by omega
    simp [hlow]
  · have hhigh : width' ≤ lo + j - lo' := by omega
    simp [hhigh]

/-- A field put back where it was read keeps the field's bits of the word and clears every other. -/
theorem place_fieldOf (lo width : Nat) (w : Cmd) :
    place lo (fieldOf lo width w) = w &&& place lo (BitVec.allOnes width) := by
  refine BitVec.eq_of_getLsbD_eq fun j hj => ?_
  simp only [BitVec.getLsbD_and, getLsbD_place, getLsbD_fieldOf, BitVec.getLsbD_allOnes]
  by_cases hlo : j < lo
  · simp [hlo]
  · rw [Nat.add_sub_cancel' (Nat.le_of_not_lt hlo), Bool.and_comm (decide (j - lo < width)),
      Bool.and_left_comm]

/-! ### A word selects at most one row (rule R98) -/

theorem RowBits.selects_iff (r : RowBits) (w : Cmd) : r.selects w = true ↔ w &&& r.mask = r.pattern :=
  beq_iff_eq

/-- No two rows have the same unit and function codes. -/
theorem opcodes_nodup : (opcodeMap.map fun r => fieldOf 56 8 r.bits.pattern).Nodup := by
  decide

/-- Every row fixes the unit and function codes. -/
theorem fieldOf_mask_opcode : ∀ r ∈ opcodeMap, fieldOf 56 8 r.bits.mask = BitVec.allOnes 8 := by
  decide

section

variable {r r' : Row} {w : Cmd}

theorem opcode_of_selects (hr : r ∈ opcodeMap) (h : w &&& r.bits.mask = r.bits.pattern) :
    fieldOf 56 8 w = fieldOf 56 8 r.bits.pattern := by
  rw [← h, fieldOf_and, fieldOf_mask_opcode r hr, BitVec.and_allOnes]

theorem row_unique (hr : r ∈ opcodeMap) (hr' : r' ∈ opcodeMap) (h : w &&& r.bits.mask = r.bits.pattern)
    (h' : w &&& r'.bits.mask = r'.bits.pattern) : r = r' :=
  List.inj_on_of_nodup_map opcodes_nodup hr hr'
    ((opcode_of_selects hr h).symm.trans (opcode_of_selects hr' h'))

/-- Everything the decoder can answer: the command of a row the word selects, or a rejection where it selects none. -/
theorem decode_cases (w : Cmd) :
    (∃ r ∈ opcodeMap, w &&& r.bits.mask = r.bits.pattern ∧ decode w = .ok (r.operands w)) ∨
    ((∀ r ∈ opcodeMap, w &&& r.bits.mask ≠ r.bits.pattern) ∧ decode w = .error (rejectionOf w)) := by
  unfold decode
  cases hfind : opcodeMap.find? fun r => r.bits.selects w with
  | some r =>
    have hsel := List.find?_some (p := fun r : Row => r.bits.selects w) hfind
    exact .inl ⟨r, List.mem_of_find?_eq_some hfind, (r.bits.selects_iff w).mp hsel, rfl⟩
  | none =>
    refine .inr ⟨fun r hr h => ?_, rfl⟩
    exact List.find?_eq_none.mp hfind r hr ((r.bits.selects_iff w).mpr h)

theorem decode_of_selects (hr : r ∈ opcodeMap) (h : w &&& r.bits.mask = r.bits.pattern) :
    decode w = .ok (r.operands w) := by
  obtain ⟨r', hr', h', hd⟩ | ⟨hnone, -⟩ := decode_cases w
  · rwa [row_unique hr hr' h h']
  · exact absurd h (hnone r hr)

end

/-- Settles O3: every row fixes the unit and function codes, and no two rows have the same. -/
theorem opcodeRowsDisjoint : Obligations.OpcodeRowsDisjoint := by
  unfold Obligations.OpcodeRowsDisjoint
  refine fun w => ⟨fun r hr h => decode_of_selects hr h,
    fun r hr r' hr' h h' => congrArg Row.bits (row_unique hr hr' h h'), fun hnone => ?_⟩
  obtain ⟨r, hr, h, -⟩ | ⟨-, hd⟩ := decode_cases w
  · exact absurd h (hnone r hr)
  · exact ⟨_, hd⟩

/-! ### Decoding what was encoded (rules R97 and R98) -/

/-- The word of a command selects the command's row. -/
theorem encode_and_mask (i : Instr) : encode i &&& i.rowBits.mask = i.rowBits.pattern := by
  cases i with
  | mrd => exact Laws.RowMatch.mrd _ _
  | mwr => exact Laws.RowMatch.mwr _ _ _
  | fstat => exact Laws.RowMatch.fstat
  | brd => exact Laws.RowMatch.brd _ _
  | bwr => exact Laws.RowMatch.bwr _ _ _
  | bget => exact Laws.RowMatch.bget _
  | bput => exact Laws.RowMatch.bput _ _
  | cinit => exact Laws.RowMatch.cinit _ _ _
  | cfin => exact Laws.RowMatch.cfin _
  | cnext => exact Laws.RowMatch.cnext _
  | ccopy => exact Laws.RowMatch.ccopy _ _
  | qappend => exact Laws.RowMatch.qappend _ _
  | qpop => exact Laws.RowMatch.qpop
  | qread => exact Laws.RowMatch.qread
  | qpeek => exact Laws.RowMatch.qpeek _
  | qreadf => exact Laws.RowMatch.qreadf
  | qpeekf => exact Laws.RowMatch.qpeekf _
  | qsetf => exact Laws.RowMatch.qsetf _
  | qreset => exact Laws.RowMatch.qreset
  | qstat => exact Laws.RowMatch.qstat

/-- A row's match has its unit and function codes and no other bit. -/
theorem pattern_eq_place (i : Instr) : i.rowBits.pattern = place 56 (fieldOf 56 8 i.rowBits.pattern) := by
  cases i <;> simp [Instr.rowBits, place, fieldOf]

theorem fieldOf_pattern (i : Instr) {lo width : Nat} (h : lo + width ≤ 56) :
    fieldOf lo width i.rowBits.pattern = 0#width := by
  rw [pattern_eq_place, fieldOf_place_disjoint (.inl h)]

/-- The reader that stands at the command's place in the map reads back its operands: in its word each field is alone at
its bits. -/
theorem exists_reader (i : Instr) :
    ∃ f, operandReaders[i.ctorIdx]? = some f ∧ (f 0#64).rowBits = i.rowBits ∧ f (encode i) = i := by
  cases i <;> refine ⟨_, rfl, rfl, ?_⟩ <;>
    simp only [encode, fieldOf_or, fieldOf_pattern, fieldOf_place_same, fieldOf_place_disjoint,
      Nat.reduceAdd, Nat.reduceLeDiff, or_true, true_or, BitVec.zero_or, BitVec.or_zero]

/-- Settles O1: the word of a command selects the command's row, and no field drops a bit of an operand. -/
theorem decodeOfEncode : Obligations.DecodeOfEncode := by
  unfold Obligations.DecodeOfEncode
  intro i
  obtain ⟨f, hf, hbits, hread⟩ := exists_reader i
  have hrow : (⟨(f 0#64).rowBits, f⟩ : Row) ∈ opcodeMap := List.mem_map_of_mem (List.mem_of_getElem? hf)
  exact (decode_of_selects hrow (hbits ▸ encode_and_mask i)).trans (congrArg Except.ok hread)

/-- Settles O4: each word is the encoding of its command. -/
theorem sampleWordsDecode : Obligations.SampleWordsDecode := by
  unfold Obligations.SampleWordsDecode
  exact ⟨decodeOfEncode (.mwr 1#4 0x3FF#16 0xA5#8), decodeOfEncode (.bwr 0x1F0#16 0x1FF#16 0xBEEF#16),
    decodeOfEncode (.bput 0x1FF#16 1#1), decodeOfEncode (.cinit 3#4 0x123#16 0x45#16),
    decodeOfEncode (.ccopy 2#4 3#4), decodeOfEncode (.qappend 0xDEADBEEF#32 0x5A#8),
    decodeOfEncode (.qpeekf 3#16)⟩

/-! ### Encoding what was decoded (rule R106) -/

theorem rowBits_operands {f : Cmd → Instr} (hf : f ∈ operandReaders) (w : Cmd) :
    (f w).rowBits = (f 0#64).rowBits := by
  fin_cases hf <;> rfl

/-- The operand fields of a row are the bits its mask leaves open, every one of them. -/
theorem encode_operands {f : Cmd → Instr} (hf : f ∈ operandReaders) (w : Cmd) :
    encode (f w) = (f w).rowBits.pattern ||| w &&& ~~~(f w).rowBits.mask := by
  fin_cases hf <;>
    simp only [encode, Instr.rowBits, place_fieldOf, ← BitVec.and_or_distrib_left] <;>
    simp [place]

/-- Settles O2: the bits the row fixes and the bits of its operand fields make up the whole word. -/
theorem encodeOfDecode : Obligations.EncodeOfDecode := by
  unfold Obligations.EncodeOfDecode
  intro w i hd
  obtain ⟨r, hr, h, hok⟩ | ⟨-, herr⟩ := decode_cases w
  · obtain ⟨f, hf, rfl⟩ := List.mem_map.mp hr
    obtain rfl : f w = i := Except.ok.inj (hok.symm.trans hd)
    rw [encode_operands hf, rowBits_operands hf, ← h, ← BitVec.and_or_distrib_left, BitVec.or_not_self,
      BitVec.and_allOnes]
  · cases herr.symm.trans hd

/-! ### Reserved codes (rule R107) -/

theorem definedFunction_pattern : ∀ r ∈ opcodeMap,
    definedFunction (fieldOf 60 4 r.bits.pattern) (fieldOf 56 4 r.bits.pattern) = true := by
  decide

theorem unit_function_of_selects {r : Row} {w : Cmd} (hr : r ∈ opcodeMap)
    (h : w &&& r.bits.mask = r.bits.pattern) :
    fieldOf 60 4 w = fieldOf 60 4 r.bits.pattern ∧ fieldOf 56 4 w = fieldOf 56 4 r.bits.pattern := by
  have hop := opcode_of_selects hr h
  exact ⟨by simpa [extractLsb'_fieldOf] using congrArg (BitVec.extractLsb' 4 4) hop,
    by simpa [extractLsb'_fieldOf] using congrArg (BitVec.extractLsb' 0 4) hop⟩

/-- Codes rule R91 does not define are rejected, by the name of the unit code or of the function code. -/
theorem decode_of_not_definedFunction {w : Cmd}
    (h : definedFunction (fieldOf 60 4 w) (fieldOf 56 4 w) = false) :
    decode w = .error (if 4 ≤ (fieldOf 60 4 w).toNat then .reservedUnit else .reservedFunction) := by
  obtain ⟨r, hr, hsel, -⟩ | ⟨-, hd⟩ := decode_cases w
  · obtain ⟨hunit, hfn⟩ := unit_function_of_selects hr hsel
    rw [hunit, hfn, definedFunction_pattern r hr] at h
    cases h
  · rw [hd, rejectionOf, h]
    rfl

theorem definedFunction_reservedUnit {unit : BitVec 4} (h : 4 ≤ unit.toNat) (fn : BitVec 4) :
    definedFunction unit fn = false := by
  unfold definedFunction
  split
  case h_5 => rfl
  all_goals omega

theorem definedFunction_sys {fn : BitVec 4} (h : fn = 0#4 ∨ 4 ≤ fn.toNat) :
    definedFunction 0#4 fn = false := by
  refine decide_eq_false fun ⟨hone, hthree⟩ => ?_
  obtain rfl | hfour := h
  · cases hone
  · omega

theorem decode_reservedUnit {w : Cmd} (h : 4 ≤ (fieldOf 60 4 w).toNat) :
    decode w = .error .reservedUnit := by
  rw [decode_of_not_definedFunction (definedFunction_reservedUnit h _), if_pos h]

theorem decode_reservedFunction {w : Cmd} {unit : BitVec 4} (hw : fieldOf 60 4 w = unit)
    (hunit : unit.toNat < 4) (h : definedFunction unit (fieldOf 56 4 w) = false) :
    decode w = .error .reservedFunction := by
  subst hw
  rw [decode_of_not_definedFunction h, if_neg (Nat.not_le.mpr hunit)]

/-! ### Taking a fault (rule R262) -/

/-- `State.raise` is the fault as rule R262 says it. -/
theorem raise_faultTaken (s : State) (e : ErrCode) : FaultTaken s e (s.raise e) := by
  refine ⟨⟨s.faultData e, fun hne => if_neg hne, rfl⟩, fun j hj => ?_⟩
  have hbits : e.faultBits.getLsbD j =
      (decide (1 ≤ j ∧ j ≤ 5 ∧ e.code.toNat = j) || decide (j = 0 ∧ e = .desc)) := by
    revert j
    cases e <;> decide
  rw [State.raise_faultReg, recordFault, BitVec.getLsbD_or, hbits, Bool.or_assoc]

theorem rejected_of_decode_error {w : Cmd} {err : DecodeError} (hd : decode w = .error err) :
    Rejected w := by
  intro s rest hin
  have hstep : step s = .next ({ s with inputs := rest }.raise (if s.halted then .halted else .illegal)) := by
    rw [step_of_decode_error hin hd, State.rejectWord_eq]
    rfl
  refine ⟨_, hstep, fun hrun => ?_, fun hhalt => ?_⟩
  · rw [if_neg (c := s.halted = true) hrun]
    exact raise_faultTaken _ _
  · rw [if_pos (c := s.halted = true) hhalt]
    exact raise_faultTaken _ _

/-- Settles O6: a word that selects a row has codes rule R91 defines. -/
theorem reservedCodesIllegal : Obligations.ReservedCodesIllegal := by
  unfold Obligations.ReservedCodesIllegal
  refine fun w => ⟨decode_reservedUnit, fun hunit hfn => ?_, fun hunit hfn => ?_, fun hunit hfn => ?_,
    fun hunit hfn => ?_, fun hd => ?_⟩
  · exact decode_reservedFunction hunit (by decide) (definedFunction_sys hfn)
  · exact decode_reservedFunction hunit (by decide) (decide_eq_false (Nat.not_le.mpr hfn))
  · exact decode_reservedFunction hunit (by decide) (decide_eq_false (Nat.not_le.mpr hfn))
  · exact decode_reservedFunction hunit (by decide) (decide_eq_false (Nat.not_le.mpr hfn))
  · obtain hd | hd := hd <;> exact rejected_of_decode_error hd

/-! ### A malformed descriptor (rules R109 and R265) -/

theorem malformedRange_of_malformed {start stop : Half} (h : Malformed start stop) :
    malformedRange start stop = true := by
  have hbad : goodRange start stop = false := decide_eq_false fun ⟨hlt, hwidth⟩ => by
    simp only [Config.maxWidth] at hwidth
    omega
  rw [malformedRange, hbad]
  rfl

theorem raise_desc_halted (s : State) : Halted (s.raise .desc) := by
  simp [Halted, recordFault, ErrCode.faultBits]

/-- The descriptor is tested before anything but the halt bit. -/
theorem firstFault_of_malformed {s : State} {start stop : Half} (hrun : ¬ Halted s)
    (hbad : Malformed start stop) (rest : List (Bool × ErrCode)) :
    firstFault ((s.halted, .halted) :: (malformedRange start stop, .desc) :: rest) = some .desc := by
  have hhalt : s.halted = false := Bool.eq_false_of_not_eq_true hrun
  simp [hhalt, malformedRange_of_malformed hbad]

/-- Settles O21: the descriptor is tested before the range, and `E_DESC` sets the halt bit. -/
theorem malformedDescriptorHalts : Obligations.MalformedDescriptorHalts := by
  unfold Obligations.MalformedDescriptorHalts
  intro s start stop value hrun hbad
  have hfirst := firstFault_of_malformed hrun hbad [(s.outsideArr stop, .range)]
  have hdesc := raise_faultTaken s .desc
  have hhalt := raise_desc_halted s
  exact ⟨⟨_, State.perform_of_some hfirst, hdesc, hhalt⟩, ⟨_, State.perform_of_some hfirst, hdesc, hhalt⟩⟩

/-! ### A command as bytes (rule R90) -/

theorem wordOfBytes_bytesOfWord (w : Cmd) : wordOfBytes (bytesOfWord w) = .ok w := by
  have hall : place 56 (BitVec.allOnes 8) ||| place 48 (BitVec.allOnes 8) ||| place 40 (BitVec.allOnes 8) |||
      place 32 (BitVec.allOnes 8) ||| place 24 (BitVec.allOnes 8) ||| place 16 (BitVec.allOnes 8) |||
      place 8 (BitVec.allOnes 8) ||| place 0 (BitVec.allOnes 8) = BitVec.allOnes 64 := by decide
  simp only [bytesOfWord, wordOfBytes, place_fieldOf, ← BitVec.and_or_distrib_left, hall,
    BitVec.and_allOnes]

/-- Settles O7: the eight bytes, put back where they were read, make up the whole word. -/
theorem serialisedWordRoundTrip : Obligations.SerialisedWordRoundTrip := by
  unfold Obligations.SerialisedWordRoundTrip
  refine fun w => ⟨wordOfBytes_bytesOfWord w, rfl, rfl, ?_⟩
  rw [decodeBytes, wordOfBytes_bytesOfWord]

/-! ### The packed response (rule R100) -/

theorem getLsbD_packed (r : Response) (j : Nat) :
    r.packed.getLsbD j =
      if j < 32 then r.data.getLsbD j else if j < 36 then r.err.code.getLsbD (j - 32)
      else decide (j = 36) && r.ok := by
  simp only [Response.packed, BitVec.getLsbD_or, BitVec.getLsbD_shiftLeft, BitVec.getLsbD_setWidth,
    BitVec.getLsbD_ofBool]
  split_ifs with hdata herr
  · have hlow : j < 37 ∧ j < 36 := by omega
    simp [hlow, hdata]
  · have hmid : j < 37 ∧ j - 32 < 37 := by omega
    rw [BitVec.getLsbD_of_ge r.data j (Nat.le_of_not_lt hdata)]
    simp [hmid, hdata, herr]
  · have hok : j < 37 ∧ j - 36 < 37 ∧ j - 36 = 0 ↔ j = 36 := by omega
    rw [BitVec.getLsbD_of_ge r.data j (Nat.le_of_not_lt hdata),
      BitVec.getLsbD_of_ge r.err.code (j - 32) (by omega)]
    simp [herr, ← hok, Bool.and_assoc]

/-- Settles O8: by the bits of the packed form. -/
theorem responsePacking : Obligations.ResponsePacking := by
  unfold Obligations.ResponsePacking
  refine ⟨fun r => ⟨getLsbD_packed r 36, ?_, ?_⟩, rfl, rfl, rfl, rfl, rfl, rfl, rfl⟩
  · refine BitVec.eq_of_getLsbD_eq fun j hj => ?_
    have hmid : 32 + j < 36 := by omega
    simp only [BitVec.getLsbD_extractLsb', getLsbD_packed]
    simp [hj, hmid]
  · refine BitVec.eq_of_getLsbD_eq fun j hj => ?_
    simp only [BitVec.getLsbD_extractLsb', getLsbD_packed]
    simp [hj]

end Sys2Proof
end

section
/-! PROOFS of the statements of 30_encoding.md: the assembler (rule R112). What it accepts is well formed, and a well-formed
command has no descriptor to fault. -/

namespace Sys2Proof.Machine

/-! ### What the assembler accepts (rules R112 and R113) -/

/-- Every command the assembler gives, if it gives any, is well formed. -/
def GivesWellFormed (o : Option (List Instr)) : Prop := ∀ is, o = some is → ∀ i ∈ is, i.wellFormed = true

namespace GivesWellFormed

theorem none : GivesWellFormed none := fun _ h => by cases h

theorem single {i : Instr} (hi : i.wellFormed = true) : GivesWellFormed (some [i]) := by
  rintro _ ⟨⟩ j hj
  rwa [List.mem_singleton.mp hj]

theorem bind {α : Type} {o : Option α} {f : α → Option (List Instr)}
    (hf : ∀ a, o = some a → GivesWellFormed (f a)) : GivesWellFormed (o >>= f) := by
  intro is h
  obtain ⟨a, ha, hfa⟩ := Option.bind_eq_some_iff.mp h
  exact hf a ha is hfa

/-- The assembler refuses a malformed descriptor. -/
theorem unlessMalformed (i : Instr) : GivesWellFormed (unlessMalformed i) := by
  unfold Machine.unlessMalformed
  split_ifs with hi
  · exact single hi
  · exact none

end GivesWellFormed

/-- The assembler refuses a reserved space code. -/
theorem goodSpace_of_fitSpace {o : Operand} {space : BitVec 4} (h : fitSpace o = some space) :
    goodSpace space = true := by
  unfold fitSpace at h
  split at h
  · cases h
    rfl
  · cases h
    rfl
  · split_ifs at h with hle
    cases h
    obtain rfl | rfl : _ = 0 ∨ _ = 1 := Nat.le_one_iff_eq_zero_or_eq_one.mp hle <;> rfl

theorem fillFrom_givesWellFormed {space : BitVec 4} (hspace : goodSpace space = true) (addr : Nat)
    (ops : List Operand) : GivesWellFormed (fillFrom space addr ops) := by
  induction ops generalizing addr with
  | nil =>
    rintro _ ⟨⟩ i hi
    cases hi
  | cons op rest ih =>
    refine .bind fun a _ => .bind fun v _ => .bind fun more hmore => ?_
    rintro _ ⟨⟩ i hi
    obtain rfl | hi := List.mem_cons.mp hi
    · exact hspace
    · exact ih (addr + 1) more hmore i hi

/-- MRD, MWR and MFILL (cases 1, 2 and 24) take a space that is checked, BRD and BWR (4 and 5) a descriptor that is; case 25
is every other line, and the rest are commands with nothing to check. -/
theorem assemble_givesWellFormed (mnemonic : String) (ops : List Operand) :
    GivesWellFormed (assemble mnemonic ops) := by
  unfold assemble
  split
  case h_1 => exact .bind fun _ hspace => .bind fun _ _ => .single (goodSpace_of_fitSpace hspace)
  case h_2 =>
    exact .bind fun _ hspace => .bind fun _ _ => .bind fun _ _ => .single (goodSpace_of_fitSpace hspace)
  case h_4 => exact .bind fun _ _ => .bind fun _ _ => .unlessMalformed _
  case h_5 => exact .bind fun _ _ => .bind fun _ _ => .bind fun _ _ => .unlessMalformed _
  case h_24 => exact .bind fun _ hspace => fillFrom_givesWellFormed (goodSpace_of_fitSpace hspace) _ _
  case h_25 => exact .none
  all_goals
    repeat refine .bind fun _ _ => ?_
    exact .single rfl

theorem assembleLine_givesWellFormed (line : List Char) : GivesWellFormed (assembleLine line) := by
  unfold assembleLine
  split
  · rintro _ ⟨⟩ i hi
    cases hi
  · split
    · exact assemble_givesWellFormed _ _
    · exact .none

/-! ### What a well-formed command reports (rule R265) -/

/-- A command whose checks have no `E_DESC` that holds, and whose effect answers with `err = 0`, does not report it. -/
theorem perform_err_ne_desc {s t eff : State} {r : Response} {checks : List (Bool × ErrCode)}
    (h : s.perform checks eff = .next t) (hr : t.responses = r :: s.responses)
    (hchecks : (true, .desc) ∉ checks) (heff : eff.lastResponse.map (·.err) = some .none) :
    r.err ≠ .desc := by
  obtain ⟨heq, -⟩ | ⟨e, heq, hfirst⟩ := s.perform_cases eff checks
  · obtain rfl : eff = t := Host.Outcome.next.inj (heq.symm.trans h)
    obtain hnone : r.err = .none := by simpa [State.lastResponse, hr] using heff
    simp [hnone]
  · obtain rfl : s.raise e = t := Host.Outcome.next.inj (heq.symm.trans h)
    obtain ⟨rfl, -⟩ := List.cons.inj hr
    rintro rfl
    exact hchecks (firstFault_mem hfirst)

theorem exec_err_ne_desc {i : Instr} (hi : i.wellFormed = true) {s t : State} {r : Response}
    (h : exec i s = .next t) (hr : t.responses = r :: s.responses) : r.err ≠ .desc := by
  cases i with
  | brd start stop | bwr start stop value =>
    have hrange : malformedRange start stop = false := congrArg (! ·) hi
    exact perform_err_ne_desc h hr (by simp [hrange]) rfl
  | qpeek | qpeekf | qsetf | qappend | qpop =>
    exact perform_err_ne_desc h hr (by simp) (by split <;> rfl)
  | fstat => exact perform_err_ne_desc (checks := []) h hr (by simp) rfl
  | _ => exact perform_err_ne_desc h hr (by simp) rfl

/-- Settles O9: what the assembler accepts is well formed, and only a malformed descriptor raises `E_DESC`. -/
theorem assembledNeverMalformed : Obligations.AssembledNeverMalformed := by
  unfold Obligations.AssembledNeverMalformed
  intro line is hline i hi
  have hwf := assembleLine_givesWellFormed line is hline i hi
  exact ⟨hwf, fun s t r h hr => exec_err_ne_desc hwf h hr⟩

end Sys2Proof.Machine
end

section
/-! PROOFS of the statements of 30_encoding.md: the stream of an encoder (rules R113, R117, R118, R164 and R168). The frames
of a byte string are said as a relation; the host's loop is brought down to the bytes one context gives; and one block of
those is one constructor of the relation. -/

namespace Sys2Proof.Machine

open Sys2Proof.Config Sys2Proof.Claims

/-! ### The frames of a byte string (rules R117 and R118) -/

/-- `CobsFrame view frame`: `frame` encodes `view` block by block. A block of `n` literals ends with the view, at a zero
byte, or at the cap with more of the view to come. -/
inductive CobsFrame : List Byte → List Byte → Prop
  | last {v : List Byte} {n : Nat} (hlen : v.length = n) (hn : n ≤ scanCap) (hv : 0#8 ∉ v) :
      CobsFrame v (BitVec.ofNat 8 (n + 1) :: v)
  | zero {v w f : List Byte} {n : Nat} (hlen : v.length = n) (hn : n < scanCap) (hv : 0#8 ∉ v)
      (hf : CobsFrame w f) : CobsFrame (v ++ 0#8 :: w) (BitVec.ofNat 8 (n + 1) :: (v ++ f))
  | full {v w f : List Byte} (hlen : v.length = scanCap) (hv : 0#8 ∉ v) (hw : w ≠ [])
      (hf : CobsFrame w f) : CobsFrame (v ++ w) (255#8 :: (v ++ f))

theorem toNat_codeByte {n : Nat} (hn : n ≤ scanCap) : (BitVec.ofNat 8 (n + 1)).toNat = n + 1 :=
  toNat_ofNat_of_lt (by simp only [scanCap] at hn; omega)

theorem codeByte_ne_zero {n : Nat} (hn : n ≤ scanCap) : BitVec.ofNat 8 (n + 1) ≠ 0#8 := fun h => by
  simpa [toNat_codeByte hn] using congrArg BitVec.toNat h

theorem codeByte_ne_full {n : Nat} (hn : n < scanCap) : BitVec.ofNat 8 (n + 1) ≠ 255#8 := fun h => by
  have heq : n + 1 = 255 := (toNat_codeByte hn.le).symm.trans (congrArg BitVec.toNat h)
  simp only [scanCap] at hn
  omega

theorem cobsDecodeBlocks_nil (fuel : Nat) : cobsDecodeBlocks fuel [] = [] := by
  cases fuel <;> rfl

/-- The decoder takes one block: its literals, and a zero unless it is a full block or the last one. -/
theorem cobsDecodeBlocks_block {fuel : Nat} {p : Byte} {v f : List Byte} (hp : p.toNat = v.length + 1)
    (hfuel : (p :: (v ++ f)).length ≤ fuel) :
    ∃ fuel', f.length ≤ fuel' ∧ cobsDecodeBlocks fuel (p :: (v ++ f)) =
      v ++ ((if p ≠ 255#8 ∧ f ≠ [] then [0#8] else []) ++ cobsDecodeBlocks fuel' f) := by
  simp only [List.length_cons, List.length_append] at hfuel
  obtain ⟨fuel, rfl⟩ := Nat.exists_eq_succ_of_ne_zero (Nat.ne_zero_of_lt hfuel)
  exact ⟨fuel, by omega, by simp [cobsDecodeBlocks, hp]⟩

namespace CobsFrame

variable {view frame : List Byte}

theorem ne_nil (h : CobsFrame view frame) : frame ≠ [] := by
  cases h <;> exact List.cons_ne_nil _ _

/-- The reference decoder inverts every frame (rule R118). -/
theorem decodeBlocks (h : CobsFrame view frame) {fuel : Nat} (hfuel : frame.length ≤ fuel) :
    cobsDecodeBlocks fuel frame = view := by
  induction h generalizing fuel with
  | @last v n hlen hn hv =>
    rw [← List.append_nil v] at hfuel ⊢
    obtain ⟨fuel', -, hblock⟩ := cobsDecodeBlocks_block (by rw [hlen, toNat_codeByte hn]) hfuel
    rw [hblock, if_neg (by simp), cobsDecodeBlocks_nil, List.append_nil]
  | @zero v w f n hlen hn hv hf ih =>
    obtain ⟨fuel', hf', hblock⟩ := cobsDecodeBlocks_block (by rw [hlen, toNat_codeByte hn.le]) hfuel
    rw [hblock, if_pos ⟨codeByte_ne_full hn, hf.ne_nil⟩, ih hf', List.singleton_append]
  | @full v w f hlen hv hw hf ih =>
    obtain ⟨fuel', hf', hblock⟩ := cobsDecodeBlocks_block (by rw [hlen]; rfl) hfuel
    rw [hblock, if_neg (by simp), ih hf', List.nil_append]

theorem cobsDecode_eq (h : CobsFrame view frame) : cobsDecode frame = view := h.decodeBlocks le_rfl

theorem zero_notMem (h : CobsFrame view frame) : 0#8 ∉ frame := by
  induction h with
  | last _ hn hv => simp [hv, (codeByte_ne_zero hn).symm]
  | zero _ hn hv _ ih => simp [hv, ih, (codeByte_ne_zero hn.le).symm]
  | full _ hv _ _ ih => simp [hv, ih]

theorem length_bounds (h : CobsFrame view frame) :
    view.length + 1 ≤ frame.length ∧ frame.length ≤ streamBound view.length := by
  simp only [streamBound]
  induction h with
  | last => simp
  | zero _ _ _ _ ih =>
    simp only [List.length_cons, List.length_append]
    omega
  | full hlen _ hw _ ih =>
    have hmore := List.length_pos_of_ne_nil hw
    simp only [List.length_cons, List.length_append, hlen, scanCap]
    omega

end CobsFrame

/-! ### A slice of `SRC` -/

/-- The `n` bytes of `SRC` from address `a` up. -/
def State.srcSlice (s : State) (a n : Nat) : List Byte := (List.range n).map fun i => s.srcByte (a + i)

namespace State

variable (s : State)

theorem viewBytes_eq_srcSlice (c : Context) : s.viewBytes c = s.srcSlice c.base.toNat c.len.toNat := rfl

@[simp] theorem length_srcSlice (a n : Nat) : (s.srcSlice a n).length = n := by
  simp [srcSlice]

theorem srcSlice_one (a : Nat) : s.srcSlice a 1 = [s.srcByte a] := rfl

theorem srcSlice_add (a m n : Nat) : s.srcSlice a (m + n) = s.srcSlice a m ++ s.srcSlice (a + m) n := by
  simp [srcSlice, List.range_add, Nat.add_assoc, Function.comp_def]

/-- The literals a Scan counts are non-zero. -/
theorem zero_notMem_scanRun (c : Context) :
    0#8 ∉ s.srcSlice (c.base.toNat + c.rc.toNat) (s.scanRun c) := by
  intro hmem
  obtain ⟨i, hi, hzero⟩ := List.mem_map.mp hmem
  exact s.nonzeroRun_nonzero _ _ (List.mem_range.mp hi) hzero

/-- A Scan that stops below the cap and inside the view stops at a zero. -/
theorem srcByte_scanRun {c : Context} (hcap : s.scanRun c < scanCap)
    (hview : c.rc.toNat + s.scanRun c < c.len.toNat) :
    s.srcByte (c.base.toNat + c.rc.toNat + s.scanRun c) = 0#8 :=
  s.nonzeroRun_stop _ _ (lt_min hcap (Nat.lt_sub_of_add_lt (by rwa [Nat.add_comm])))

end State

/-! ### The stream of a context -/

/-- The bytes CNEXT gives from the context `c` on, at most `fuel` of them, and the context after them: the host's loop
without the block around it. -/
def State.stream (s : State) : (fuel : Nat) → Context → List Byte × Context
  | 0, c => ([], c)
  | fuel + 1, c =>
    if c.fin then ([], c)
    else
      let rest := s.stream fuel (s.nextByte c).2
      ((s.nextByte c).1 :: rest.1, rest.2)

namespace State

variable {s t : State} {c : Context}

theorem stream_finished (hfin : c.fin = true) (fuel : Nat) : s.stream fuel c = ([], c) := by
  cases fuel <;> simp [stream, hfin]

theorem stream_succ (hfin : c.fin = false) (fuel : Nat) :
    s.stream (fuel + 1) c =
      ((s.nextByte c).1 :: (s.stream fuel (s.nextByte c).2).1, (s.stream fuel (s.nextByte c).2).2) := by
  simp [stream, hfin]

theorem nextByte_valid (s : State) (c : Context) : (s.nextByte c).2.valid = c.valid := by
  have hterminate (d : Context) : (terminate d).valid = d.valid := by
    obtain ⟨heq, -⟩ | ⟨heq, -⟩ := terminate_cases d <;> rw [heq]
  simp only [nextByte, hterminate]
  split_ifs
  · obtain ⟨-, -, heq⟩ | ⟨-, heq⟩ | ⟨-, -, heq⟩ := scanOutcome_cases c (s.scanRun c) <;> rw [scan, heq]
  · rfl

theorem nonzeroRun_congr (h : ∀ a, t.srcByte a = s.srcByte a) (addr limit : Nat) :
    t.nonzeroRun addr limit = s.nonzeroRun addr limit := by
  induction limit generalizing addr with
  | zero => rfl
  | succ limit ih => simp only [nonzeroRun, h, ih]

/-- Of the state a CNEXT reads `SRC` only, beside the context. -/
theorem nextByte_congr (h : ∀ a, t.srcByte a = s.srcByte a) (c : Context) :
    t.nextByte c = s.nextByte c := by
  simp only [nextByte, scan, scanRun, emit, nonzeroRun_congr h, h]

theorem stream_congr (h : ∀ a, t.srcByte a = s.srcByte a) (fuel : Nat) (c : Context) :
    t.stream fuel c = s.stream fuel c := by
  induction fuel generalizing c with
  | zero => rfl
  | succ fuel ih => simp only [stream, nextByte_congr h, ih]

@[simp] theorem lastData_respond (s : State) (ok : Bool) (data : Word) :
    (s.respond ok data).lastData = data := rfl

/-- The host can run CFIN and CNEXT on context `k`, which is `c`. -/
structure Serves (s : State) (k : BitVec 4) (c : Context) : Prop where
  running : s.halted = false
  index : k.toNat < s.params.nCtx
  stored : k.toNat < s.ctx.length
  context : s.getCtx k = c
  valid : c.valid = true

namespace Serves

variable {k : BitVec 4}

theorem noContext_eq (h : s.Serves k c) : s.noContext k = false :=
  decide_eq_false (Nat.not_le.mpr h.index)

theorem noEncoder_eq (h : s.Serves k c) : s.noEncoder k = false := by
  rw [noEncoder, h.context, h.valid]
  rfl

theorem respond (h : s.Serves k c) (ok : Bool) (data : Word) : (s.respond ok data).Serves k c :=
  ⟨h.running, h.index, h.stored, h.context, h.valid⟩

theorem setCtx (h : s.Serves k c) {d : Context} (hvalid : d.valid = true) : (s.setCtx k d).Serves k d where
  running := h.running
  index := h.index
  stored := by simpa using h.stored
  context := s.getCtx_setCtx_same k d h.stored
  valid := hvalid

theorem exec_cfin (h : s.Serves k c) : exec (.cfin k) s = .next (s.respond true (bitWord c.fin)) := by
  rw [← h.context]
  exact perform_of_none (by simp [h.running, h.noContext_eq, h.noEncoder_eq])

theorem exec_cnext (h : s.Serves k c) (hfin : c.fin = false) :
    exec (.cnext k) s =
      .next ((s.setCtx k (s.nextByte c).2).respond true ((s.nextByte c).1.setWidth 32)) := by
  obtain rfl := h.context
  exact perform_of_none (by simp [h.running, h.noContext_eq, h.noEncoder_eq, hfin])

theorem encodeLoop_finished (h : s.Serves k c) (hfin : c.fin = true) (fuel : Nat) :
    encodeLoop k (fuel + 1) s = ([], s.respond true 1#32) := by
  simp [encodeLoop, h.exec_cfin, hfin, bitWord]

/-- Once round the loop: CFIN answers 0, CNEXT gives the byte, and the rest runs with `SRC` as it was. -/
theorem encodeLoop_succ (h : s.Serves k c) (hfin : c.fin = false) :
    ∃ u : State, u.Serves k (s.nextByte c).2 ∧ (∀ a, u.srcByte a = s.srcByte a) ∧
      ∀ fuel, encodeLoop k (fuel + 1) s =
        ((s.nextByte c).1 :: (encodeLoop k fuel u).1, (encodeLoop k fuel u).2) := by
  have ht := h.respond true 0#32
  have hsame : (s.respond true 0#32).nextByte c = s.nextByte c :=
    nextByte_congr (s := s) (t := s.respond true 0#32) (fun _ => rfl) c
  have hnext := hsame ▸ ht.exec_cnext hfin
  have hvalid := (s.nextByte_valid c).trans h.valid
  refine ⟨_, (ht.setCtx hvalid).respond true ((s.nextByte c).1.setWidth 32), fun _ => rfl, fun fuel => ?_⟩
  simp [encodeLoop, h.exec_cfin, hfin, bitWord, hnext]

/-- The host's loop collects the stream of the context and leaves the context after it. -/
theorem encodeLoop_eq_stream (h : s.Serves k c) (fuel : Nat) :
    (encodeLoop k fuel s).1 = (s.stream fuel c).1 ∧
      (encodeLoop k fuel s).2.getCtx k = (s.stream fuel c).2 := by
  induction fuel generalizing s c with
  | zero => exact ⟨rfl, h.context⟩
  | succ fuel ih =>
    cases hfin : c.fin with
    | true =>
      rw [h.encodeLoop_finished hfin, stream_finished hfin]
      exact ⟨rfl, h.context⟩
    | false =>
      obtain ⟨u, hu, hsrc, hloop⟩ := h.encodeLoop_succ hfin
      obtain ⟨hbytes, hctx⟩ := ih hu
      rw [hloop, stream_succ hfin, hbytes, hctx, stream_congr hsrc]
      exact ⟨rfl, rfl⟩

end Serves

end State

/-! ### The termination rule, by its condition (rule R165) -/

section

variable {c : Context}

theorem terminate_of_done (hbr : c.br = 0#8) (hrc : c.rc = c.len) (hcz : c.cz = false) :
    terminate c = { c with fin := true } :=
  if_pos ⟨hbr, hrc, hcz⟩

theorem terminate_of_pending (hbr : c.br ≠ 0#8) : terminate c = c :=
  if_neg fun ⟨h, _, _⟩ => hbr h

theorem terminate_of_unscanned (hrc : c.rc ≠ c.len) : terminate c = c :=
  if_neg fun ⟨_, h, _⟩ => hrc h

theorem terminate_of_zero (hcz : c.cz = true) : terminate c = c :=
  if_neg fun ⟨_, _, h⟩ => by cases hcz.symm.trans h

end

/-! ### One block (rules R162 to R165) -/

/-- The context once the literals of its block have been emitted. -/
def Context.drained (c : Context) : Context := { c with lc := c.lc + c.br.setWidth 16, br := 0#8 }

theorem Context.drained_of_br_zero {c : Context} (hbr : c.br = 0#8) : c.drained = c := by
  obtain ⟨valid, base, len, rc, br, lc, cz, fin⟩ := c
  obtain rfl : br = 0#8 := hbr
  simp [drained]

theorem State.drained_emit (s : State) {c : Context} (hbr : c.br ≠ 0#8) :
    (s.emit c).2.drained = c.drained := by
  have hlc : c.lc + 1#16 + (c.br - 1#8).setWidth 16 = c.lc + c.br.setWidth 16 := by bv_omega
  simp [emit, Context.drained, hlc]

/-- `c` is an encoder over the view `base`, `len` that is to scan its next block at offset `p`. -/
structure Context.AtBlock (c : Context) (base len : Half) (p : Nat) : Prop where
  base_eq : c.base = base
  len_eq : c.len = len
  cursor : c.rc.toNat = p
  inView : p ≤ len.toNat
  drained : c.br = 0#8
  running : c.fin = false

theorem newEncoder_atBlock (base len : Half) : (newEncoder base len).AtBlock base len 0 :=
  ⟨rfl, rfl, rfl, Nat.zero_le _, rfl, rfl⟩

namespace State

/-- What the block of `n` literals at offset `p` can be (rule R164): its code byte, and the context after it. -/
inductive Block (s : State) (base len : Half) (p n : Nat) : Byte → Context → Prop
  | last {e : Context} (hn : n ≤ scanCap) (hall : p + n = len.toNat) (he : e.fin = true) :
      Block s base len p n (BitVec.ofNat 8 (n + 1)) e
  | zero {e : Context} (hn : n < scanCap) (hzero : s.srcByte (base.toNat + p + n) = 0#8)
      (he : e.AtBlock base len (p + n + 1)) : Block s base len p n (BitVec.ofNat 8 (n + 1)) e
  | full {e : Context} (hn : n = scanCap) (hmore : p + n < len.toNat) (he : e.AtBlock base len (p + n)) :
      Block s base len p n 255#8 e

variable {s : State} {c d : Context}

/-- The Emits of a block give its literals. -/
theorem stream_literals (n fuel : Nat) (hfin : d.fin = false) (hbr : d.br.toNat = n)
    (hlc : d.lc.toNat + n < 2 ^ 16) :
    s.stream (fuel + n) (terminate d) =
      (s.srcSlice (d.base.toNat + d.lc.toNat) n ++ (s.stream fuel (terminate d.drained)).1,
        (s.stream fuel (terminate d.drained)).2) := by
  induction n generalizing d with
  | zero =>
    rw [Context.drained_of_br_zero (BitVec.eq_of_toNat_eq hbr)]
    rfl
  | succ n ih =>
    have hne : d.br ≠ 0#8 := by
      intro h
      simp [h] at hbr
    have hnext : s.nextByte d = ((s.emit d).1, terminate (s.emit d).2) := by simp [nextByte, hne]
    have hleft : (s.emit d).2.br.toNat = n := by
      simp only [emit]
      bv_omega
    have hcursor : (s.emit d).2.lc.toNat = d.lc.toNat + 1 := by
      simp only [emit]
      bv_omega
    rw [terminate_of_pending hne, ← Nat.add_assoc, stream_succ hfin, hnext,
      ih (d := (s.emit d).2) hfin hleft (by omega), hcursor, s.drained_emit hne, Nat.add_comm n 1, srcSlice_add]
    rfl

/-- A block is a Scan and the Emits of its literals. -/
theorem stream_block {codeByte : Byte} {n : Nat} (fuel : Nat) (hfin : c.fin = false) (hbr : c.br = 0#8)
    (hscan : s.scan c = (codeByte, d)) (hbase : d.base = c.base) (hlc : d.lc = c.rc) (hdfin : d.fin = c.fin)
    (hdbr : d.br.toNat = n) (hn : c.rc.toNat + n < 2 ^ 16) :
    s.stream (fuel + n + 1) c =
      (codeByte :: (s.srcSlice (c.base.toNat + c.rc.toNat) n ++ (s.stream fuel (terminate d.drained)).1),
        (s.stream fuel (terminate d.drained)).2) := by
  have hnext : s.nextByte c = (codeByte, terminate d) := by simp [nextByte, hbr, hscan]
  rw [stream_succ hfin, hnext, stream_literals n fuel (hdfin.trans hfin) hdbr (by rwa [hlc]), hbase, hlc]

/-- From a block's start the stream is that block, and then the stream of the context after it. -/
theorem exists_block {base len : Half} {p : Nat} (h : c.AtBlock base len p) :
    ∃ (codeByte : Byte) (n : Nat) (e : Context), p + n ≤ len.toNat ∧
      0#8 ∉ s.srcSlice (base.toNat + p) n ∧ s.Block base len p n codeByte e ∧
      ∀ fuel, s.stream (fuel + n + 1) c =
        (codeByte :: (s.srcSlice (base.toNat + p) n ++ (s.stream fuel e).1), (s.stream fuel e).2) := by
  obtain ⟨rfl, rfl, rfl, hview, hbr, hfin⟩ := h
  obtain ⟨hcap, hrest⟩ := s.scanRun_le c
  have hend : c.rc.toNat + s.scanRun c ≤ c.len.toNat := by omega
  have hlen := c.len.isLt
  have hrun : (BitVec.ofNat 8 (s.scanRun c)).toNat = s.scanRun c :=
    toNat_ofNat_of_lt (by simp only [scanCap] at hcap; omega)
  suffices hblock : ∃ codeByte d, s.scan c = (codeByte, d) ∧
      (d.base = c.base ∧ d.lc = c.rc ∧ d.fin = c.fin ∧ d.br = BitVec.ofNat 8 (s.scanRun c)) ∧
      s.Block c.base c.len c.rc.toNat (s.scanRun c) codeByte (terminate d.drained) by
    obtain ⟨codeByte, d, hscan, ⟨hbase, hlc, hdfin, hdbr⟩, hblock⟩ := hblock
    exact ⟨codeByte, _, _, hend, s.zero_notMem_scanRun c, hblock, fun fuel =>
      stream_block fuel hfin hbr hscan hbase hlc hdfin (hdbr ▸ hrun) (by omega)⟩
  obtain ⟨hlt, hin, hscan⟩ | ⟨hfull, hscan⟩ | ⟨hne, hout, hscan⟩ := scanOutcome_cases c (s.scanRun c)
  · refine ⟨_, _, hscan, ⟨rfl, rfl, rfl, rfl⟩, ?_⟩
    rw [terminate_of_zero rfl]
    exact .zero hlt (s.srcByte_scanRun hlt hin) ⟨rfl, rfl, toNat_ofNat_of_lt (by omega), hin, rfl, hfin⟩
  · have hcursor : (BitVec.ofNat 16 (c.rc.toNat + scanCap)).toNat = c.rc.toNat + s.scanRun c := by
      rw [hfull, toNat_ofNat_of_lt (hfull ▸ by omega)]
    refine ⟨_, _, hscan, ⟨rfl, rfl, rfl, rfl⟩, ?_⟩
    by_cases hrc : BitVec.ofNat 16 (c.rc.toNat + scanCap) = c.len
    · have hall : c.rc.toNat + s.scanRun c = c.len.toNat := by rw [← hcursor, hrc]
      have hcode : 255#8 = BitVec.ofNat 8 (s.scanRun c + 1) := by rw [hfull]
      rw [terminate_of_done rfl hrc rfl, hcode]
      exact .last hcap hall rfl
    · have hmore : c.rc.toNat + s.scanRun c ≠ c.len.toNat := fun hall =>
        hrc (BitVec.eq_of_toNat_eq (hcursor.trans hall))
      rw [terminate_of_unscanned hrc]
      exact .full hfull (hend.lt_of_ne hmore) ⟨rfl, rfl, hcursor, hend, rfl, hfin⟩
  · refine ⟨_, _, hscan, ⟨rfl, rfl, rfl, rfl⟩, ?_⟩
    rw [terminate_of_done rfl rfl rfl]
    exact .last hcap (by omega) rfl

/-- The stream from a block's start is a frame of what is left of the view, and ends in a finished context. -/
theorem stream_frame {base len : Half} {p : Nat} (h : c.AtBlock base len p) {fuel : Nat}
    (hfuel : streamBound (len.toNat - p) ≤ fuel) :
    CobsFrame (s.srcSlice (base.toNat + p) (len.toNat - p)) (s.stream fuel c).1 ∧
      (s.stream fuel c).2.fin = true := by
  induction hm : len.toNat - p using Nat.strong_induction_on generalizing c p fuel with
  | _ m ih =>
  subst hm
  obtain ⟨codeByte, n, e, hend, hv, hblock, hstream⟩ := exists_block (s := s) h
  have hlen := s.length_srcSlice (base.toNat + p) n
  simp only [streamBound] at hfuel ih
  obtain ⟨fuel, rfl⟩ : ∃ extra, fuel = extra + n + 1 := ⟨fuel - n - 1, by omega⟩
  rw [hstream]
  cases hblock with
  | last hn hall he =>
    rw [stream_finished he, List.append_nil, show len.toNat - p = n by omega]
    exact ⟨.last hlen hn hv, he⟩
  | zero hn hzero he =>
    have hnext := he.inView
    obtain ⟨hframe, hdone⟩ := ih _ (by omega) he (fuel := fuel) (by omega) rfl
    simp only [← Nat.add_assoc] at hframe
    rw [show len.toNat - p = n + (1 + (len.toNat - (p + n + 1))) by omega, srcSlice_add, srcSlice_add,
      srcSlice_one, hzero, List.singleton_append]
    exact ⟨.zero hlen hn hv hframe, hdone⟩
  | full hn hmore he =>
    obtain ⟨hframe, hdone⟩ := ih _ (by simp only [scanCap] at hn; omega) he (fuel := fuel)
      (by simp only [scanCap] at hn; omega) rfl
    simp only [← Nat.add_assoc] at hframe
    rw [show len.toNat - p = n + (len.toNat - (p + n)) by omega, srcSlice_add]
    have hne : s.srcSlice (base.toNat + p + n) (len.toNat - (p + n)) ≠ [] := by
      rw [← List.length_pos_iff_ne_nil, length_srcSlice]
      omega
    exact ⟨.full (hlen.trans hn) hv hne hframe, hdone⟩

end State

/-! ### The stream of a new encoder -/

/-- The host's loop over a new encoder collects a frame of its view and leaves it finished. -/
theorem encodeLoop_newEncoder {s : State} {k : BitVec 4} {base len : Half} {fuel : Nat} (hinv : s.Inv)
    (hrun : ¬ Halted s) (hk : k.toNat < s.params.nCtx) (hnew : s.getCtx k = newEncoder base len)
    (hfuel : streamBound len.toNat ≤ fuel) :
    CobsFrame (s.viewBytes (newEncoder base len)) (encodeLoop k fuel s).1 ∧
      ((encodeLoop k fuel s).2.getCtx k).fin = true := by
  have hserves : s.Serves k (newEncoder base len) :=
    ⟨Bool.eq_false_of_not_eq_true hrun, hk, hinv.contexts ▸ hk, hnew, rfl⟩
  obtain ⟨hbytes, hctx⟩ := hserves.encodeLoop_eq_stream fuel
  rw [hbytes, hctx]
  exact State.stream_frame (newEncoder_atBlock base len) hfuel

/-- Settles O44: the collected stream is a frame of the view, and the reference decoder inverts every frame. -/
theorem streamDecodesToView : Obligations.StreamDecodesToView := by
  unfold Obligations.StreamDecodesToView
  intro s k base len fuel hinv hrun hk hnew hfuel
  obtain ⟨hframe, hdone⟩ := encodeLoop_newEncoder hinv hrun hk hnew hfuel
  exact ⟨hframe.cobsDecode_eq, hdone⟩

/-- Settles O45: no frame holds a zero byte, and the length of a frame is bounded by that of its view. -/
theorem streamZeroFreeAndBounded : Obligations.StreamZeroFreeAndBounded := by
  unfold Obligations.StreamZeroFreeAndBounded
  intro s k base len fuel hinv hrun hk hnew hfuel
  obtain ⟨hframe, -⟩ := encodeLoop_newEncoder hinv hrun hk hnew hfuel
  have hbounds := hframe.length_bounds
  rw [State.viewBytes_eq_srcSlice, State.length_srcSlice] at hbounds
  exact ⟨hframe.zero_notMem, hbounds⟩

end Sys2Proof.Machine
end

section
/-! PROOFS of the statements of 40_bitrange_codec.md. The bits of `ARR` by their global index (rule R10): which of them a
load and a store move, what a range or a single bit reads, and what a write of one changes. The results and the laws of
rule R150 are read off these, for they speak of global bits only. -/

namespace Sys2Proof.Machine

open Claims Config

/-! ### The encoding lines of the rules (rules R98 and R105) -/

/-- A reader of the opcode map gives the meaning of its row's encoding line: no other row has the row's codes. -/
theorem encodedBy_of_reader {f : Cmd → Instr} (hf : f ∈ operandReaders) :
    EncodedBy (f 0#64).rowBits.pattern (f 0#64).rowBits.mask f := by
  have hrow : (⟨(f 0#64).rowBits, f⟩ : Row) ∈ opcodeMap := List.mem_map_of_mem hf
  refine fun w => ⟨decode_of_selects hrow, fun hcodes hne => ?_⟩
  obtain ⟨r, hr, hsel, -⟩ | ⟨-, hd⟩ := decode_cases w
  · obtain rfl := List.inj_on_of_nodup_map opcodes_nodup hr hrow
      ((opcode_of_selects hr hsel).symm.trans hcodes)
    exact absurd hsel hne
  · exact rejected_of_decode_error hd

/-! ### The checks of the four commands (rules R140 to R146) -/

theorem refuses_of_firstFault {i : Instr} {s effect : State} {checks : List (Bool × ErrCode)} {e : ErrCode}
    (hexec : exec i s = s.perform checks effect) (hfault : firstFault checks = some e) : Refuses i s e :=
  ⟨s.raise e, hexec.trans (State.perform_of_some hfault), raise_faultTaken s e⟩

section

variable {s effect : State} {i : Instr} {start stop offset : Half}

theorem halted_eq_false (hrun : ¬ Halted s) : s.halted = false := Bool.eq_false_of_not_eq_true hrun

theorem malformedRange_eq_false (hgood : ¬ Malformed start stop) : malformedRange start stop = false := by
  have : goodRange start stop = true := decide_eq_true ⟨by omega, by simp only [maxWidth]; omega⟩
  rw [malformedRange, this]
  rfl

theorem outsideArr_eq_true (hout : s.params.nA ≤ offset.toNat / 8) : s.outsideArr offset = true :=
  decide_eq_true hout

theorem outsideArr_eq_false (hin : offset.toNat / 8 < s.params.nA) : s.outsideArr offset = false :=
  decide_eq_false (Nat.not_le.mpr hin)

/-- The checks of BRD and BWR, in order (rule R140). -/
theorem range_refusals
    (hexec : exec i s = s.perform
      [(s.halted, .halted), (malformedRange start stop, .desc), (s.outsideArr stop, .range)] effect) :
    (Halted s → Refuses i s .halted) ∧
    (¬ Halted s → Malformed start stop → Refuses i s .desc) ∧
    (¬ Halted s → ¬ Malformed start stop → s.params.nA ≤ stop.toNat / 8 → Refuses i s .range) := by
  refine ⟨fun hhalt => refuses_of_firstFault hexec ?_,
    fun hrun hbad => refuses_of_firstFault hexec (firstFault_of_malformed hrun hbad _),
    fun hrun hgood hout => refuses_of_firstFault hexec ?_⟩
  · exact if_pos hhalt
  · simp [halted_eq_false hrun, malformedRange_eq_false hgood, outsideArr_eq_true hout]

/-- The checks of BGET and BPUT, in order (rule R144). -/
theorem bit_refusals
    (hexec : exec i s = s.perform [(s.halted, .halted), (s.outsideArr offset, .range)] effect) :
    (Halted s → Refuses i s .halted) ∧
    (¬ Halted s → s.params.nA ≤ offset.toNat / 8 → Refuses i s .range) := by
  refine ⟨fun hhalt => refuses_of_firstFault hexec ?_, fun hrun hout => refuses_of_firstFault hexec ?_⟩
  · exact if_pos hhalt
  · simp [halted_eq_false hrun, outsideArr_eq_true hout]

theorem exec_bget (hrun : ¬ Halted s) (hin : offset.toNat / 8 < s.params.nA) :
    exec (.bget offset) s = .next (s.respond true (bitWord (s.readBit offset))) :=
  State.perform_of_none (by simp [halted_eq_false hrun, outsideArr_eq_false hin])

theorem exec_bput (hrun : ¬ Halted s) (hin : offset.toNat / 8 < s.params.nA) (bit : BitVec 1) :
    exec (.bput offset bit) s = .next ((s.writeBit offset bit).respond true 0#32) :=
  State.perform_of_none (by simp [halted_eq_false hrun, outsideArr_eq_false hin])

end

/-- BRD and BWR of the range pass their checks in `s`. -/
structure State.Admits (s : State) (start stop : Half) : Prop where
  running : ¬ Halted s
  wellFormed : ¬ Malformed start stop
  inside : stop.toNat / 8 < s.params.nA

namespace State.Admits

variable {s t : State} {start stop : Half}

theorem passesChecks (h : s.Admits start stop) :
    firstFault [(s.halted, .halted), (malformedRange start stop, .desc), (s.outsideArr stop, .range)] =
      none := by
  simp [halted_eq_false h.running, malformedRange_eq_false h.wellFormed, outsideArr_eq_false h.inside]

theorem exec_brd (h : s.Admits start stop) :
    exec (.brd start stop) s = .next (s.respond true (s.readRange start stop)) :=
  perform_of_none h.passesChecks

theorem exec_bwr (h : s.Admits start stop) (value : Half) :
    exec (.bwr start stop value) s = .next ((s.writeRange start stop value).respond true 0#32) :=
  perform_of_none h.passesChecks

theorem of_eq (h : s.Admits start stop) (hparams : t.params = s.params) (hfault : t.faultReg = s.faultReg) :
    t.Admits start stop where
  running := by
    rw [Halted, hfault]
    exact h.running
  wellFormed := h.wellFormed
  inside := hparams ▸ h.inside

/-- A write of any range leaves the checks as they are. -/
theorem after_bwr (h : s.Admits start stop) (a b v : Half) :
    ((s.writeRange a b v).respond true 0#32).Admits start stop := by
  obtain ⟨m, hm⟩ := s.writeRange_changes_only_arr a b v
  exact h.of_eq (by rw [hm]; rfl) (by rw [hm]; rfl)

end State.Admits

/-! ### Masks and fields of a word -/

/-- `mask(w)` has the `w` lowest bits (rule R11). -/
theorem getLsbD_lowMask {bits j : Nat} (hj : j < bits) (w : Nat) :
    (lowMask bits w).getLsbD j = decide (j < w) := by
  have hone : 1 < 2 ^ bits := Nat.one_lt_two_pow (by omega)
  have hpow : 1#bits <<< w = BitVec.ofNat bits (2 ^ w) := by
    change BitVec.ofNat bits ((1#bits).toNat <<< w) = _
    rw [BitVec.toNat_ofNat, Nat.mod_eq_of_lt hone, Nat.one_shiftLeft]
  rw [lowMask, hpow, BitVec.ofNat_sub_ofNat_of_le _ _ hone Nat.one_le_two_pow, BitVec.getLsbD_ofNat,
    Nat.testBit_two_pow_sub_one, decide_eq_true hj, Bool.true_and]

theorem getLsbD_and_lowMask {bits : Nat} (x : BitVec bits) (w j : Nat) :
    (x &&& lowMask bits w).getLsbD j = (decide (j < w) && x.getLsbD j) := by
  obtain hj | hj := Nat.lt_or_ge j bits
  · rw [BitVec.getLsbD_and, getLsbD_lowMask hj, Bool.and_comm]
  · simp [BitVec.getLsbD_of_ge _ _ hj]

/-- The `w` lowest bits of `value`, as `v`, put at bit `sh` of a word in place of the bits there: the form of the writes
of rules R136 and R137. -/
theorem getLsbD_merge {bits m w : Nat} (old : BitVec bits) {v : BitVec bits} {value : BitVec m}
    (hv : ∀ k, v.getLsbD k = (decide (k < w) && value.getLsbD k)) (sh : Nat) {j : Nat} (hj : j < bits) :
    (old &&& ~~~(lowMask bits w <<< sh) ||| v <<< sh).getLsbD j =
      if sh ≤ j ∧ j < sh + w then value.getLsbD (j - sh) else old.getLsbD j := by
  have hsub : j - sh < bits := by omega
  simp only [BitVec.getLsbD_or, BitVec.getLsbD_and, BitVec.getLsbD_not, BitVec.getLsbD_shiftLeft,
    getLsbD_lowMask hsub, hv, hj, decide_true, Bool.true_and]
  obtain hlow | hge := Nat.lt_or_ge j sh
  · simp [hlow, hlow.not_ge]
  obtain hin | hhigh := Nat.lt_or_ge j (sh + w)
  · have hfield : j - sh < w := by omega
    simp [hge.not_gt, hge, hin, hfield]
  · have hfield : w ≤ j - sh := by omega
    simp [hhigh.not_gt, hfield.not_gt]

/-! ### Global bits (rule R10) -/

namespace State

theorem gbit_respond (s : State) (ok : Bool) (data : Word) (g : Nat) :
    (s.respond ok data).gbit g = s.gbit g := rfl

theorem gbit_writeArr (s : State) (k : Nat) (v : Byte) (g : Nat) :
    (s.writeArr k v).gbit g = if g / 8 = k then v.getLsbD (7 - g % 8) else s.gbit g := by
  rw [gbit, arrByte_writeArr, apply_ite (BitVec.getLsbD · (7 - g % 8)), gbit]

theorem getLsbD_arrByte (s : State) (a : Nat) {j : Nat} (hj : j < 8) :
    (s.arrByte a).getLsbD j = s.gbit (8 * (a + 1) - 1 - j) := by
  have hbyte : (8 * (a + 1) - 1 - j) / 8 = a := by omega
  have hbit : 7 - (8 * (a + 1) - 1 - j) % 8 = j := by omega
  rw [gbit, hbyte, hbit]

/-- A byte is its eight global bits. -/
theorem arrByte_eq_of_gbit {s t : State} {a : Nat} (h : ∀ g, g / 8 = a → t.gbit g = s.gbit g) :
    t.arrByte a = s.arrByte a := by
  refine BitVec.eq_of_getLsbD_eq fun j hj => ?_
  rw [getLsbD_arrByte _ _ hj, getLsbD_arrByte _ _ hj, h _ (by omega)]

/-- A load holds the global bits of its bytes, the last one lowest (rule R64). -/
theorem getLsbD_arrLoad (s : State) (a : Nat) {n : Nat} (hn : n ≤ 4) (j : Nat) :
    (s.arrLoad a n).getLsbD j = (decide (j < 8 * n) && s.gbit (8 * (a + n) - 1 - j)) := by
  induction n generalizing j with
  | zero => simp [arrLoad]
  | succ n ih =>
    rw [arrLoad, BitVec.getLsbD_or, BitVec.getLsbD_shiftLeft, BitVec.getLsbD_setWidth, ih (by omega)]
    obtain hlow | hhigh := Nat.lt_or_ge j 8
    · have hin : j < 32 ∧ j < 8 * (n + 1) := by omega
      rw [getLsbD_arrByte _ _ hlow, Nat.add_assoc]
      simp [hlow, hin]
    · have hword : (j < 32 ∧ j - 8 < 8 * n) ↔ j < 8 * (n + 1) := by omega
      have hbit : 8 * (a + n) - 1 - (j - 8) = 8 * (a + (n + 1)) - 1 - j := by omega
      rw [BitVec.getLsbD_of_ge _ _ hhigh, hbit, ← decide_eq_decide.mpr hword, Bool.decide_and]
      simp [hhigh.not_gt, Bool.and_assoc]

/-- A store gives the global bits of its bytes the low bits of its value, and no other bit changes (rule R64). -/
theorem gbit_arrStore (s : State) (a n : Nat) (v : Word) (g : Nat) :
    (s.arrStore a n v).gbit g =
      if 8 * a ≤ g ∧ g < 8 * (a + n) then v.getLsbD (8 * (a + n) - 1 - g) else s.gbit g := by
  induction n generalizing v with
  | zero =>
    rw [if_neg (by omega)]
    rfl
  | succ n ih =>
    rw [arrStore, gbit_writeArr, ih, BitVec.getLsbD_ushiftRight, BitVec.getLsbD_setWidth]
    by_cases hlast : g / 8 = a + n
    · have hbit : 8 * (a + (n + 1)) - 1 - g = 7 - g % 8 := by omega
      have hbyte : 7 - g % 8 < 8 := by omega
      rw [if_pos hlast, if_pos (by omega), hbit, decide_eq_true hbyte, Bool.true_and]
    · rw [if_neg hlast]
      by_cases hbefore : 8 * a ≤ g ∧ g < 8 * (a + n)
      · have hbit : 8 + (8 * (a + n) - 1 - g) = 8 * (a + (n + 1)) - 1 - g := by omega
        rw [if_pos hbefore, if_pos (by omega), hbit]
      · rw [if_neg hbefore, if_neg (by omega)]

section

variable (s : State) {a m w sh first last : Nat} {value : BitVec m}

/-- The `w` lowest bits of a value put into a byte of `ARR` at bit `sh`: the global bits `first` to `last` take them. -/
theorem gbit_writeArr_merge {v : Byte} (hv : ∀ k, v.getLsbD k = (decide (k < w) && value.getLsbD k))
    (hbyte : 8 * a ≤ first) (hfirst : first + w + sh = 8 * (a + 1)) (hlast : last + 1 + sh = 8 * (a + 1))
    (g : Nat) :
    (s.writeArr a (s.arrByte a &&& ~~~(lowMask 8 w <<< sh) ||| v <<< sh)).gbit g =
      if first ≤ g ∧ g ≤ last then value.getLsbD (last - g) else s.gbit g := by
  have hbit : 7 - g % 8 < 8 := by omega
  rw [gbit_writeArr, getLsbD_merge _ hv _ hbit]
  by_cases ha : g / 8 = a
  · have hrange : sh ≤ 7 - g % 8 ∧ 7 - g % 8 < sh + w ↔ first ≤ g ∧ g ≤ last := by omega
    have hback : 7 - g % 8 - sh = last - g := by omega
    rw [if_pos ha, gbit, ha]
    simp only [hrange, hback]
  · rw [if_neg ha, if_neg (by omega)]

/-- The same for `n` bytes of `ARR`, loaded and stored as one word. -/
theorem gbit_arrStore_merge {n : Nat} (hn : n ≤ 4) {v : Word}
    (hv : ∀ k, v.getLsbD k = (decide (k < w) && value.getLsbD k))
    (hbyte : 8 * a ≤ first) (hfirst : first + w + sh = 8 * (a + n)) (hlast : last + 1 + sh = 8 * (a + n))
    (g : Nat) :
    (s.arrStore a n (s.arrLoad a n &&& ~~~(lowMask 32 w <<< sh) ||| v <<< sh)).gbit g =
      if first ≤ g ∧ g ≤ last then value.getLsbD (last - g) else s.gbit g := by
  rw [gbit_arrStore]
  by_cases hin : 8 * a ≤ g ∧ g < 8 * (a + n)
  · have hload : 8 * (a + n) - 1 - g < 8 * n := by omega
    have hrange : sh ≤ 8 * (a + n) - 1 - g ∧ 8 * (a + n) - 1 - g < sh + w ↔ first ≤ g ∧ g ≤ last := by
      omega
    have hback : 8 * (a + n) - 1 - (8 * (a + n) - 1 - g) = g := by omega
    have hfield : 8 * (a + n) - 1 - g - sh = last - g := by omega
    rw [if_pos hin, getLsbD_merge _ hv _ (by omega), getLsbD_arrLoad _ _ hn, hback, hfield,
      decide_eq_true hload, Bool.true_and]
    simp only [hrange]
  · rw [if_neg hin, if_neg (by omega)]

end

end State

/-! ### A single bit (rule R137) -/

namespace State

theorem readBit_eq_gbit (s : State) (g : Half) : s.readBit g = s.gbit g.toNat := by
  have hbit : 7 - bitInByte g < 8 := by omega
  have hne : BitVec.twoPow 8 (7 - bitInByte g) ≠ 0#8 := fun h => by
    simpa [hbit] using congrArg (BitVec.getLsbD · (7 - bitInByte g)) h
  rw [readBit, bitMask, ← BitVec.twoPow_eq, BitVec.and_twoPow]
  change _ = (s.arrByte (byteIndex g)).getLsbD (7 - bitInByte g)
  cases (s.arrByte (byteIndex g)).getLsbD (7 - bitInByte g) <;> simp [hne]

theorem gbit_writeBit (s : State) (offset : Half) (bit : BitVec 1) (g : Nat) :
    (s.writeBit offset bit).gbit g = if g = offset.toNat then bit.getLsbD 0 else s.gbit g := by
  have hmask : bitMask offset = lowMask 8 1 <<< (7 - bitInByte offset) := rfl
  have hvalue : (if bit = 1#1 then bitMask offset else 0#8) =
      bit.setWidth 8 <<< (7 - bitInByte offset) := by
    obtain rfl | rfl := BitVec.eq_zero_or_eq_one bit
    · simp
    · rfl
  have hbit : ∀ k, (bit.setWidth 8).getLsbD k = (decide (k < 1) && bit.getLsbD k) := fun k => by
    obtain rfl | hk := Nat.eq_zero_or_pos k
    · simp
    · simp [BitVec.getLsbD_of_ge bit k hk]
  have hat : offset.toNat + 1 + (7 - bitInByte offset) = 8 * (byteIndex offset + 1) := by
    unfold byteIndex bitInByte
    omega
  rw [writeBit, hvalue, hmask, s.gbit_writeArr_merge hbit (by omega) hat hat]
  by_cases hg : g = offset.toNat
  · rw [if_pos (by omega), if_pos hg, hg, Nat.sub_self]
  · rw [if_neg (by omega), if_neg hg]

end State

/-! ### The span of a range (rule R132) -/

section

variable {start stop : Half}

theorem rangeSpan_eq (start stop : Half) :
    rangeSpan start stop = stop.toNat / 8 - start.toNat / 8 + 1 := rfl

theorem rangeWidth_eq (start stop : Half) : rangeWidth start stop = stop.toNat - start.toNat + 1 := rfl

/-- The bits before the range in its first byte and the range itself, `s + w` bits, end in the last byte of the span. -/
theorem span_bounds (hgood : ¬ Malformed start stop) :
    8 * (rangeSpan start stop - 1) < start.toNat % 8 + rangeWidth start stop ∧
      start.toNat % 8 + rangeWidth start stop ≤ 8 * rangeSpan start stop := by
  rw [rangeSpan_eq, rangeWidth_eq]
  omega

theorem rangeSpan_cases (hgood : ¬ Malformed start stop) :
    rangeSpan start stop = 1 ∨ rangeSpan start stop = 2 ∨ rangeSpan start stop = 3 := by
  rw [rangeSpan_eq]
  omega

end

/-- Settles O30: `s + w` bits end in the last of `n` bytes. -/
theorem spanOfRange : Obligations.SpanOfRange := by
  unfold Obligations.SpanOfRange
  intro start stop hgood
  obtain ⟨hlow, hhigh⟩ := span_bounds hgood
  have hspan := rangeSpan_cases hgood
  rw [rangeWidth_eq] at hlow hhigh
  refine ⟨rfl, ?_, ?_, ?_, hspan, ?_⟩ <;> omega

/-! ### Reading a range (rules R133 and R134) -/

namespace State

/-- The zero byte that pads a load of three bytes is shifted out again. -/
theorem arrLoad_three_padded (s : State) (a sh : Nat) :
    s.arrLoad a 3 <<< 8 >>> (8 + sh) = s.arrLoad a 3 >>> sh := by
  refine BitVec.eq_of_getLsbD_eq fun j _ => ?_
  have hin : 8 + sh + j < 32 ↔ sh + j < 24 := by omega
  have hpast : ¬ 8 + sh + j < 8 := by omega
  have hback : 8 + sh + j - 8 = sh + j := by omega
  simp only [BitVec.getLsbD_ushiftRight, BitVec.getLsbD_shiftLeft, getLsbD_arrLoad s a (n := 3) (by omega),
    hin, hpast, hback, decide_false, Bool.not_false, Bool.and_true, Nat.reduceMul, Bool.and_self_left]

/-- Rule R134 in one form for every span. -/
theorem readRange_eq_load (s : State) {start stop : Half} (hgood : ¬ Malformed start stop) :
    s.readRange start stop =
      (s.arrLoad (byteIndex start) (rangeSpan start stop) >>> (7 - bitInByte stop)) &&&
        lowMask 32 (rangeWidth start stop) := by
  have hshift : 15 - bitInByte stop = 8 + (7 - bitInByte stop) := by
    unfold bitInByte
    omega
  unfold readRange
  obtain h | h | h := rangeSpan_cases hgood
  · simp only [h]
  · simp only [h]
  · simp only [h, hshift, arrLoad_three_padded]

/-- Bit `j` of the value BRD reads is the global bit `j` before the last of the range. -/
theorem getLsbD_readRange (s : State) {start stop : Half} (hgood : ¬ Malformed start stop) (j : Nat) :
    (s.readRange start stop).getLsbD j =
      (decide (j < rangeWidth start stop) && s.gbit (stop.toNat - j)) := by
  have hspan := rangeSpan_cases hgood
  rw [s.readRange_eq_load hgood, getLsbD_and_lowMask, BitVec.getLsbD_ushiftRight,
    getLsbD_arrLoad _ _ (by omega)]
  by_cases hj : j < rangeWidth start stop
  · rw [rangeWidth_eq] at hj
    have hin : 7 - bitInByte stop + j < 8 * rangeSpan start stop := by
      rw [rangeSpan_eq, bitInByte]
      omega
    have hbit : 8 * (byteIndex start + rangeSpan start stop) - 1 - (7 - bitInByte stop + j) =
        stop.toNat - j := by
      rw [rangeSpan_eq, bitInByte, byteIndex]
      omega
    rw [hbit, decide_eq_true hin, Bool.true_and]
  · simp [hj]

/-- One bit more makes the definition's sum twice as large, plus the bit. -/
theorem field_succ (s : State) (start w : Nat) :
    s.field start (w + 1) = Nat.bit (s.gbit (start + w)) (s.field start w) := by
  have hdouble : ∀ k ∈ Finset.range w, (s.gbit (start + k)).toNat * 2 ^ (w + 1 - 1 - k) =
      2 * ((s.gbit (start + k)).toNat * 2 ^ (w - 1 - k)) := fun k hk => by
    have hexp : w + 1 - 1 - k = w - 1 - k + 1 := by
      have := Finset.mem_range.mp hk
      omega
    rw [hexp, pow_succ]
    ring
  rw [field, Finset.sum_range_succ, Finset.sum_congr rfl hdouble, ← Finset.mul_sum, Nat.bit_val, field]
  simp

theorem testBit_field (s : State) (start w j : Nat) :
    (s.field start w).testBit j = (decide (j < w) && s.gbit (start + (w - 1 - j))) := by
  induction w generalizing j with
  | zero => simp [field]
  | succ w ih =>
    rw [field_succ]
    cases j with
    | zero => simp
    | succ j =>
      have hbit : w + 1 - 1 - (j + 1) = w - 1 - j := by omega
      rw [Nat.testBit_bit_succ, ih, hbit]
      simp

/-- The load, shift and mask of rule R134 give the value that rule R133 defines. -/
theorem toNat_readRange (s : State) {start stop : Half} (hgood : ¬ Malformed start stop) :
    (s.readRange start stop).toNat = s.field start.toNat (rangeWidth start stop) := by
  refine Nat.eq_of_testBit_eq fun j => ?_
  rw [BitVec.testBit_toNat, s.getLsbD_readRange hgood, testBit_field]
  by_cases hj : j < rangeWidth start stop
  · have hbit : start.toNat + (rangeWidth start stop - 1 - j) = stop.toNat - j := by
      rw [rangeWidth_eq] at hj ⊢
      omega
    rw [hbit]
  · simp [hj]

end State

/-! ### Writing a range (rules R135 and R136) -/

/-- The value BWR writes, at the width of the bytes it goes into. -/
theorem getLsbD_setWidth_lowMask (value : Half) {w bits : Nat} (hw : w ≤ bits) (k : Nat) :
    ((value &&& lowMask 16 w).setWidth bits).getLsbD k = (decide (k < w) && value.getLsbD k) := by
  rw [BitVec.getLsbD_setWidth, getLsbD_and_lowMask]
  by_cases hk : k < w
  · rw [decide_eq_true (hk.trans_le hw), Bool.true_and]
  · simp [hk]

/-- The bits of the value from bit `sh` up, for one byte of three (rule R136). -/
theorem getLsbD_setWidth_piece (value : Half) (w sh k : Nat) :
    (((value &&& lowMask 16 w) >>> sh).setWidth 8).getLsbD k =
      (decide (k < 8 ∧ sh + k < w) && value.getLsbD (sh + k)) := by
  rw [BitVec.getLsbD_setWidth, BitVec.getLsbD_ushiftRight, getLsbD_and_lowMask, Bool.decide_and, Bool.and_assoc]

/-- The mask of rule R136 for the third byte keeps what the field does not take. -/
theorem shiftRight_ones {k : Nat} (hk : k ≤ 8) : 0xFF#8 >>> k = ~~~(lowMask 8 k <<< (8 - k)) := by
  decide +revert

namespace State

section

variable (s : State) {start stop : Half} (value : Half)

theorem gbit_writeRange_one (hgood : ¬ Malformed start stop) (hspan : rangeSpan start stop = 1) (g : Nat) :
    (s.writeRange start stop value).gbit g =
      if start.toNat ≤ g ∧ g ≤ stop.toNat then value.getLsbD (stop.toNat - g) else s.gbit g := by
  simp only [writeRange, hspan]
  rw [rangeSpan_eq] at hspan
  refine s.gbit_writeArr_merge (getLsbD_setWidth_lowMask value ?_) ?_ ?_ ?_ g
  all_goals
    simp only [rangeWidth_eq, byteIndex, bitInByte]
    omega

theorem gbit_writeRange_two (hgood : ¬ Malformed start stop) (hspan : rangeSpan start stop = 2) (g : Nat) :
    (s.writeRange start stop value).gbit g =
      if start.toNat ≤ g ∧ g ≤ stop.toNat then value.getLsbD (stop.toNat - g) else s.gbit g := by
  simp only [writeRange, hspan]
  rw [rangeSpan_eq] at hspan
  refine s.gbit_arrStore_merge (by decide) (getLsbD_setWidth_lowMask value ?_) ?_ ?_ ?_ g
  all_goals
    simp only [rangeWidth_eq, byteIndex, bitInByte]
    omega

/-- The first of the three pieces of rule R136, in the low bits of its byte. -/
theorem gbit_writeArr_firstPiece {f b w last : Nat} (hb : b < 8) (hw : 8 - b ≤ w) (hlast : last + 1 = 8 * f + b + w)
    (g : Nat) :
    (s.writeArr f (s.arrByte f &&& ~~~(lowMask 8 (8 - b)) |||
        ((value &&& lowMask 16 w) >>> (w - (8 - b))).setWidth 8)).gbit g =
      if 8 * f + b ≤ g ∧ g ≤ 8 * f + 7 then value.getLsbD (last - g) else s.gbit g := by
  have hpiece : ∀ k, (((value &&& lowMask 16 w) >>> (w - (8 - b))).setWidth 8).getLsbD k =
      (decide (k < 8 - b) && (value >>> (w - (8 - b))).getLsbD k) := fun k => by
    have hin : k < 8 ∧ w - (8 - b) + k < w ↔ k < 8 - b := by omega
    rw [getLsbD_setWidth_piece, decide_eq_decide.mpr hin, BitVec.getLsbD_ushiftRight]
  have hput := s.gbit_writeArr_merge (a := f) (sh := 0) (first := 8 * f + b) (last := 8 * f + 7) hpiece
    (by omega) (by omega) (by omega) g
  rw [BitVec.shiftLeft_zero, BitVec.shiftLeft_zero, BitVec.getLsbD_ushiftRight] at hput
  refine hput.trans (ite_congr rfl (fun hg => ?_) fun _ => rfl)
  have hbit : w - (8 - b) + (8 * f + 7 - g) = last - g := by omega
  rw [hbit]

/-- The second piece, a whole byte. -/
theorem gbit_writeArr_middlePiece {k e w : Nat} (hw : e + 1 + 8 ≤ w) (g : Nat) :
    (s.writeArr k (((value &&& lowMask 16 w) >>> (e + 1)).setWidth 8)).gbit g =
      if g / 8 = k then value.getLsbD (8 * (k + 1) + e - g) else s.gbit g := by
  rw [gbit_writeArr]
  refine ite_congr rfl (fun hg => ?_) fun _ => rfl
  have hin : 7 - g % 8 < 8 ∧ e + 1 + (7 - g % 8) < w := by omega
  have hbit : e + 1 + (7 - g % 8) = 8 * (k + 1) + e - g := by omega
  rw [getLsbD_setWidth_piece, decide_eq_true hin, Bool.true_and, hbit]

/-- The third piece, in the high bits of its byte. -/
theorem gbit_writeArr_lastPiece {a e w : Nat} (he : e < 8) (hw : e + 1 ≤ w) (g : Nat) :
    (s.writeArr a (s.arrByte a &&& 0xFF#8 >>> (e + 1) |||
        (value &&& lowMask 16 w &&& lowMask 16 (e + 1)).setWidth 8 <<< (8 - (e + 1)))).gbit g =
      if 8 * a ≤ g ∧ g ≤ 8 * a + e then value.getLsbD (8 * a + e - g) else s.gbit g := by
  rw [shiftRight_ones (by omega), s.gbit_writeArr_merge (getLsbD_setWidth_lowMask _ (by omega)) le_rfl
    (last := 8 * a + e) (by omega) (by omega)]
  refine ite_congr rfl (fun hg => ?_) fun _ => rfl
  have hin : 8 * a + e - g < w := by omega
  rw [getLsbD_and_lowMask, decide_eq_true hin, Bool.true_and]

/-- Three bytes take the range as the last bits of the first byte, the whole second and the first bits of the third. -/
theorem pieces_of_three (hgood : ¬ Malformed start stop) (hspan : rangeSpan start stop = 3) :
    start.toNat = 8 * byteIndex start + bitInByte start ∧
      stop.toNat = 8 * (byteIndex start + 2) + bitInByte stop ∧ bitInByte start < 8 ∧ bitInByte stop < 8 ∧
      rangeWidth start stop = (8 - bitInByte start) + 8 + (bitInByte stop + 1) := by
  rw [rangeSpan_eq] at hspan
  rw [rangeWidth_eq]
  unfold byteIndex bitInByte
  omega

theorem gbit_writeRange_three (hgood : ¬ Malformed start stop) (hspan : rangeSpan start stop = 3) (g : Nat) :
    (s.writeRange start stop value).gbit g =
      if start.toNat ≤ g ∧ g ≤ stop.toNat then value.getLsbD (stop.toNat - g) else s.gbit g := by
  obtain ⟨hstart, hstop, hb, he, hw⟩ := pieces_of_three hgood hspan
  simp only [writeRange, hspan]
  generalize rangeWidth start stop = w, byteIndex start = f, bitInByte start = b, bitInByte stop = e at *
  have hthird : ∀ v v' : Byte, s.arrByte (f + 2) = ((s.writeArr f v).writeArr (f + 1) v').arrByte (f + 2) := by
    simp [arrByte_writeArr]
  rw [hthird, gbit_writeArr_lastPiece _ _ he (by omega), gbit_writeArr_middlePiece _ _ (by omega),
    gbit_writeArr_firstPiece _ _ hb (last := stop.toNat) (by omega) (by omega), ← hstop, ← hstart, ← ite_or,
    ← ite_or]
  exact ite_congr (propext (by omega)) (fun _ => rfl) fun _ => rfl

/-- Rule R135: the algorithm of rule R136 gives the bits of the range those of the value, the last bit the lowest, and
no other global bit changes. -/
theorem gbit_writeRange (hgood : ¬ Malformed start stop) (g : Nat) :
    (s.writeRange start stop value).gbit g =
      if start.toNat ≤ g ∧ g ≤ stop.toNat then value.getLsbD (stop.toNat - g) else s.gbit g := by
  obtain h | h | h := rangeSpan_cases hgood
  · exact s.gbit_writeRange_one value hgood h g
  · exact s.gbit_writeRange_two value hgood h g
  · exact s.gbit_writeRange_three value hgood h g

end

end State

/-! ### The four commands (rules R140 to R146) -/

/-- Settles O31: the bits of the load, shifted and masked, are the terms of the sum that defines the field. -/
theorem brdReadsField : Obligations.BrdReadsField := by
  unfold Obligations.BrdReadsField
  refine ⟨encodedBy_of_reader (List.mem_of_getElem? (i := 3) rfl), fun s start stop => ?_⟩
  obtain ⟨hhalted, hdesc, hrange⟩ :=
    range_refusals (i := .brd start stop) (s := s) (start := start) (stop := stop) rfl
  exact ⟨hhalted, hdesc, hrange, fun hrun hgood hin =>
    ⟨_, State.Admits.exec_brd ⟨hrun, hgood, hin⟩, s.toNat_readRange hgood⟩⟩

/-- Settles O32: the bytes outside the span have no bit of the range. -/
theorem bwrWritesField : Obligations.BwrWritesField := by
  unfold Obligations.BwrWritesField
  refine ⟨encodedBy_of_reader (List.mem_of_getElem? (i := 4) rfl), fun s start stop value => ?_⟩
  obtain ⟨hhalted, hdesc, hrange⟩ :=
    range_refusals (i := .bwr start stop value) (s := s) (start := start) (stop := stop) rfl
  refine ⟨hhalted, hdesc, hrange, fun hrun hgood hin =>
    ⟨_, State.Admits.exec_bwr ⟨hrun, hgood, hin⟩ value, ?_, s.gbit_writeRange value hgood, fun a ha =>
      State.arrByte_eq_of_gbit (s := s) (t := s.writeRange start stop value) fun g hg => ?_⟩⟩
  · obtain ⟨m, hm⟩ := s.writeRange_changes_only_arr start stop value
    rw [hm]
    rfl
  · rw [s.gbit_writeRange value hgood, if_neg (by omega)]

/-- Settles O33: the one-bit mask tells the global bit. -/
theorem bgetReadsBit : Obligations.BgetReadsBit := by
  unfold Obligations.BgetReadsBit
  refine ⟨encodedBy_of_reader (List.mem_of_getElem? (i := 5) rfl), fun s offset => ?_⟩
  obtain ⟨hhalted, hrange⟩ := bit_refusals (i := .bget offset) (s := s) (offset := offset) rfl
  refine ⟨hhalted, hrange, fun hrun hin => ?_⟩
  rw [exec_bget hrun hin, s.readBit_eq_gbit]
  rfl

/-- Settles O34: the bytes other than the bit's own keep their bits. -/
theorem bputWritesBit : Obligations.BputWritesBit := by
  unfold Obligations.BputWritesBit
  refine ⟨encodedBy_of_reader (List.mem_of_getElem? (i := 6) rfl), fun s offset bit => ?_⟩
  obtain ⟨hhalted, hrange⟩ := bit_refusals (i := .bput offset bit) (s := s) (offset := offset) rfl
  refine ⟨hhalted, hrange, fun hrun hin => ⟨_, exec_bput hrun hin bit, rfl, s.gbit_writeBit offset bit,
    fun a ha => State.arrByte_eq_of_gbit (s := s) (t := s.writeBit offset bit) fun g hg => ?_⟩⟩
  rw [s.gbit_writeBit, if_neg (by omega)]

/-! ### The laws of the unit (rules R135 and R150) -/

/-- Settles O35: each bit of the value is written to the global bit it is read from. -/
theorem bitRangeRoundTrip : Obligations.BitRangeRoundTrip := by
  unfold Obligations.BitRangeRoundTrip
  intro s start stop value hrun hgood hin
  have hadmits : s.Admits start stop := ⟨hrun, hgood, hin⟩
  refine ⟨_, hadmits.exec_bwr value, ?_⟩
  have hvalue : ((s.writeRange start stop value).respond true 0#32).readRange start stop =
      BitVec.ofNat 32 (value.toNat % 2 ^ rangeWidth start stop) := by
    refine BitVec.eq_of_getLsbD_eq fun j hj => ?_
    rw [State.getLsbD_readRange _ hgood, State.gbit_respond, s.gbit_writeRange value hgood,
      BitVec.getLsbD_ofNat, decide_eq_true hj, Nat.testBit_mod_two_pow, BitVec.testBit_toNat, Bool.true_and]
    by_cases hw : j < rangeWidth start stop
    · rw [rangeWidth_eq] at hw
      have hback : stop.toNat - (stop.toNat - j) = j := by omega
      rw [if_pos (by omega), hback]
    · simp [hw]
  rw [(hadmits.after_bwr start stop value).exec_brd, hvalue]
  rfl

/-- Settles O36: BRD's value and BGET's answer are read from the same global bits, of which BPUT changes one. -/
theorem singleBitAgreesWithRange : Obligations.SingleBitAgreesWithRange := by
  unfold Obligations.SingleBitAgreesWithRange
  intro s start stop g bit hrun hgood hin hfrom hto
  have hadmits : s.Admits start stop := ⟨hrun, hgood, hin⟩
  have hafter : ((s.writeBit g bit).respond true 0#32).Admits start stop := hadmits.of_eq rfl rfl
  have hbyte : g.toNat / 8 < s.params.nA := (Nat.div_le_div_right hto).trans_lt hin
  have hwidth : stop.toNat - g.toNat < rangeWidth start stop := by
    rw [rangeWidth_eq]
    omega
  refine ⟨_, _, _, hadmits.exec_brd, ?_, exec_bput hrun hbyte bit, hafter.exec_brd, fun j => ?_⟩
  · rw [exec_bget hrun hbyte, s.readBit_eq_gbit, s.getLsbD_readRange hgood, Nat.sub_sub_self hto,
      decide_eq_true hwidth, Bool.true_and]
    rfl
  · rw [State.getLsbD_readRange _ hgood, State.gbit_respond, s.gbit_writeBit, s.getLsbD_readRange hgood]
    by_cases hw : j < rangeWidth start stop
    · have hsame : stop.toNat - j = g.toNat ↔ j = stop.toNat - g.toNat := by
        rw [rangeWidth_eq] at hw
        omega
      simp only [hw, hsame, decide_true, Bool.true_and]
    · rw [decide_eq_false hw, Bool.false_and, Bool.false_and, if_neg (by omega)]

/-- Settles O37: a global bit lies in one of the two ranges at most. -/
theorem disjointWritesCommute : Obligations.DisjointWritesCommute := by
  unfold Obligations.DisjointWritesCommute
  intro s a b v a' b' v' hrun hgood hgood' hin hin' hdisjoint
  have hadmits : s.Admits a b := ⟨hrun, hgood, hin⟩
  have hadmits' : s.Admits a' b' := ⟨hrun, hgood', hin'⟩
  refine ⟨_, _, _, _, hadmits.exec_bwr v, (hadmits'.after_bwr a b v).exec_bwr v', hadmits'.exec_bwr v',
    (hadmits.after_bwr a' b' v').exec_bwr v, fun g => ?_⟩
  simp only [State.gbit_respond, State.gbit_writeRange _ _ hgood, State.gbit_writeRange _ _ hgood']
  by_cases hfirst : a.toNat ≤ g ∧ g ≤ b.toNat
  · have hsecond : ¬ (a'.toNat ≤ g ∧ g ≤ b'.toNat) := by omega
    simp only [if_neg hsecond]
  · simp only [if_neg hfirst]

end Sys2Proof.Machine
end

section
/-! PROOFS of the statements of 41_cobs_encoder.md. The checks of the four commands and what each does once they pass; the
run a Scan counts, by the first zero; and the streams of rule R166, read off the frames of 30_encoding.md. -/

namespace Sys2Proof.Machine

open Claims Config

/-! ### The checks of the four commands (rules R170 to R176) -/

section

variable {i : Instr} {s effect : State} {rest : List (Bool × ErrCode)} {k : BitVec 4}

theorem refuses_halted (hexec : exec i s = s.perform ((s.halted, .halted) :: rest) effect) (hhalt : Halted s) :
    Refuses i s .halted :=
  refuses_of_firstFault hexec (if_pos hhalt)

theorem refuses_of_running {e : ErrCode} (hexec : exec i s = s.perform ((s.halted, .halted) :: rest) effect)
    (hrun : ¬ Halted s) (hfault : firstFault rest = some e) : Refuses i s e :=
  refuses_of_firstFault hexec (by rw [firstFault_cons, halted_eq_false hrun, if_neg (by decide), hfault])

theorem noContext_eq_true (hout : s.params.nCtx ≤ k.toNat) : s.noContext k = true := decide_eq_true hout

theorem noContext_eq_false (hin : k.toNat < s.params.nCtx) : s.noContext k = false :=
  decide_eq_false (Nat.not_le.mpr hin)

theorem noEncoder_eq_true (hvalid : (s.getCtx k).valid = false) : s.noEncoder k = true := by
  simp [State.noEncoder, hvalid]

theorem noEncoder_eq_false (hvalid : (s.getCtx k).valid = true) : s.noEncoder k = false := by
  simp [State.noEncoder, hvalid]

/-- The two checks of a context that is to be read (rule R266). -/
theorem firstFault_of_badContext (hbad : s.params.nCtx ≤ k.toNat ∨ (s.getCtx k).valid = false)
    (rest : List (Bool × ErrCode)) :
    firstFault ((s.noContext k, .ctx) :: (s.noEncoder k, .ctx) :: rest) = some .ctx := by
  obtain hout | hvalid := hbad
  · simp [noContext_eq_true hout]
  · simp [noEncoder_eq_true hvalid]

end

/-! ### CINIT (rule R170) -/

/-- Settles O38: the context written is the one CINIT constructs. -/
theorem cinitConstructs : Obligations.CinitConstructs := by
  unfold Obligations.CinitConstructs
  refine ⟨encodedBy_of_reader (List.mem_of_getElem? (i := 7) rfl), fun s k base len =>
    ⟨refuses_halted rfl, fun hrun hout => refuses_of_running rfl hrun ?_,
      fun hrun hk hview => refuses_of_running rfl hrun ?_, fun hrun hk hview => ?_⟩⟩
  · simp [noContext_eq_true hout]
  · have hrange : s.outsideSrc base len = true := decide_eq_true hview
    simp [noContext_eq_false hk, hrange]
  · have hrange : s.outsideSrc base len = false := decide_eq_false (Nat.not_lt.mpr hview)
    exact State.perform_of_none (by simp [halted_eq_false hrun, noContext_eq_false hk, hrange])

/-! ### A context the host can step (rules R172 and R174) -/

namespace State

variable {s : State} {k : BitVec 4} {c : Context}

/-- A context that reads as valid is one of the list: an index outside it reads as a context with no encoder. -/
theorem lt_length_of_valid (hvalid : (s.getCtx k).valid = true) : k.toNat < s.ctx.length := by
  by_contra hout
  have hempty : s.getCtx k = Context.empty := List.getD_eq_default _ _ (Nat.le_of_not_lt hout)
  rw [hempty] at hvalid
  cases hvalid

theorem serves_of_valid (hrun : ¬ Halted s) (hk : k.toNat < s.params.nCtx) (hctx : s.getCtx k = c)
    (hvalid : c.valid = true) : s.Serves k c :=
  ⟨halted_eq_false hrun, hk, lt_length_of_valid (hctx ▸ hvalid), hctx, hvalid⟩

end State

/-- Settles O39: CFIN only reads the context. -/
theorem cfinReadsFinished : Obligations.CfinReadsFinished := by
  unfold Obligations.CfinReadsFinished
  exact ⟨encodedBy_of_reader (List.mem_of_getElem? (i := 8) rfl), fun s k =>
    ⟨refuses_halted rfl, fun hrun hbad => refuses_of_running rfl hrun (firstFault_of_badContext hbad []),
      fun hrun hk hvalid => (State.serves_of_valid hrun hk rfl hvalid).exec_cfin⟩⟩

/-! ### CCOPY (rules R167 and R176) -/

theorem exec_ccopy {s : State} {k k2 : BitVec 4} (hrun : ¬ Halted s) (hk : k.toNat < s.params.nCtx)
    (hk2 : k2.toNat < s.params.nCtx) (hvalid : (s.getCtx k2).valid = true) :
    exec (.ccopy k k2) s = .next ((s.setCtx k (s.getCtx k2)).respond true 0#32) :=
  State.perform_of_none (by
    simp [halted_eq_false hrun, noContext_eq_false hk, noContext_eq_false hk2, noEncoder_eq_false hvalid])

/-- Settles O42: the destination's own check comes before the two of the source. -/
theorem ccopyCopies : Obligations.CcopyCopies := by
  unfold Obligations.CcopyCopies
  refine ⟨encodedBy_of_reader (List.mem_of_getElem? (i := 10) rfl), fun s k k2 =>
    ⟨refuses_halted rfl, fun hrun hbad => refuses_of_running rfl hrun ?_, exec_ccopy⟩⟩
  obtain hout | hbad := hbad
  · simp [noContext_eq_true hout]
  · rw [firstFault_cons, firstFault_of_badContext hbad [], ite_self]

/-- Settles O43: after the copy the host can step the same context at both indices, and the bytes its loop collects depend
on the context and `SRC` only. -/
theorem copyContinuesTheStream : Obligations.CopyContinuesTheStream := by
  unfold Obligations.CopyContinuesTheStream
  intro s k k2 hinv hrun hk hk2 hvalid
  have hdest : (s.setCtx k (s.getCtx k2)).getCtx k = s.getCtx k2 :=
    s.getCtx_setCtx_same k _ (hinv.contexts ▸ hk)
  have hkept : (s.setCtx k (s.getCtx k2)).getCtx k2 = s.getCtx k2 := by
    obtain rfl | hne := eq_or_ne k2 k
    · exact hdest
    · exact s.getCtx_setCtx_other _ hne
  have hserves : ∀ j : BitVec 4, j.toNat < s.params.nCtx →
      (s.setCtx k (s.getCtx k2)).getCtx j = s.getCtx k2 →
      ((s.setCtx k (s.getCtx k2)).respond true 0#32).Serves j (s.getCtx k2) :=
    fun j hj hctx => State.serves_of_valid hrun hj hctx hvalid
  refine ⟨_, exec_ccopy hrun hk hk2 hvalid, fun fuel => ?_⟩
  obtain ⟨hcopy, -⟩ := (hserves k hk hdest).encodeLoop_eq_stream fuel
  obtain ⟨hsource, -⟩ := (hserves k2 hk2 hkept).encodeLoop_eq_stream fuel
  exact hcopy.trans hsource.symm

/-! ### CNEXT (rules R162 to R165 and R174) -/

/-- The termination rule on a context that is not finished: its condition becomes `fin`. -/
theorem terminate_of_running {c : Context} (hfin : c.fin = false) :
    terminate c = { c with fin := decide (c.br = 0#8 ∧ c.rc = c.len ∧ c.cz = false) } := by
  obtain ⟨heq, hdone⟩ | ⟨heq, hpending⟩ := terminate_cases c
  · rw [heq, decide_eq_true hdone]
  · rw [heq, decide_eq_false hpending, ← hfin]

namespace State

variable {s : State} {k : BitVec 4} {c d : Context}

theorem Serves.exec_cnext_eq (h : s.Serves k c) (hfin : c.fin = false) {b : Byte}
    (hnext : s.nextByte c = (b, d)) :
    exec (.cnext k) s = .next { answered s true (b.setWidth 32) [] with ctx := s.ctx.set k.toNat d } := by
  rw [h.exec_cnext hfin, hnext]
  rfl

/-- CNEXT in the Scan phase: the code byte of the block, and the context after the Scan and the termination rule. -/
theorem Serves.exec_cnext_scan (h : s.Serves k c) (hfin : c.fin = false) (hbr : c.br = 0#8) {b : Byte}
    (hscan : s.scan c = (b, d)) {e : Context} (he : terminate d = e) :
    exec (.cnext k) s = .next { answered s true (b.setWidth 32) [] with ctx := s.ctx.set k.toNat e } :=
  h.exec_cnext_eq hfin (by simp [nextByte, hbr, hscan, he])

/-- CNEXT in the Emit phase. -/
theorem Serves.exec_cnext_emit (h : s.Serves k c) (hfin : c.fin = false) (hbr : c.br ≠ 0#8) {b : Byte}
    (hemit : s.emit c = (b, d)) {e : Context} (he : terminate d = e) :
    exec (.cnext k) s = .next { answered s true (b.setWidth 32) [] with ctx := s.ctx.set k.toNat e } :=
  h.exec_cnext_eq hfin (by simp [nextByte, hbr, hemit, he])

/-- `n` non-zero bytes, and then a zero or the limit, are a run of `n`. -/
theorem nonzeroRun_eq {addr limit n : Nat} (hle : n ≤ limit) (hrun : ∀ i < n, s.srcByte (addr + i) ≠ 0#8)
    (hstop : n < limit → s.srcByte (addr + n) = 0#8) : s.nonzeroRun addr limit = n := by
  obtain hlt | heq | hgt := Nat.lt_trichotomy (s.nonzeroRun addr limit) n
  · exact absurd (s.nonzeroRun_stop addr limit (hlt.trans_le hle)) (hrun _ hlt)
  · exact heq
  · exact absurd (hstop (hgt.trans_le (s.nonzeroRun_le addr limit))) (s.nonzeroRun_nonzero addr limit hgt)

/-- A Scan counts the non-zero bytes to the first zero or the end of the view, up to the cap. -/
theorem scanRun_eq_min {r : Nat} (hview : c.rc.toNat + r ≤ c.len.toNat)
    (hrun : ∀ i < r, s.srcByte (c.base.toNat + c.rc.toNat + i) ≠ 0#8)
    (hstop : c.rc.toNat + r < c.len.toNat → s.srcByte (c.base.toNat + c.rc.toNat + r) = 0#8) :
    s.scanRun c = min scanCap r := by
  refine nonzeroRun_eq (by omega) (fun i hi => hrun i (by omega)) fun hlt => ?_
  rw [min_eq_right (by omega)]
  exact hstop (by omega)

end State

section

variable {c : Context} {r : Nat}

theorem scanOutcome_of_zero (hr : r < scanCap) (hin : c.rc.toNat + r < c.len.toNat) :
    scanOutcome c r = (BitVec.ofNat 8 (r + 1), { c with
      lc := c.rc, br := BitVec.ofNat 8 r, rc := BitVec.ofNat 16 (c.rc.toNat + r + 1), cz := true }) :=
  if_pos ⟨hr, hin⟩

theorem scanOutcome_of_cap :
    scanOutcome c scanCap = (255#8, { c with
      lc := c.rc, br := 254#8, rc := BitVec.ofNat 16 (c.rc.toNat + scanCap), cz := false }) := by
  simp [scanOutcome]

theorem scanOutcome_of_end (hr : r < scanCap) (hend : c.rc.toNat + r = c.len.toNat) :
    scanOutcome c r = (BitVec.ofNat 8 (r + 1), { c with
      lc := c.rc, br := BitVec.ofNat 8 r, rc := c.len, cz := false }) :=
  (if_neg fun h => absurd hend h.2.ne).trans (if_neg hr.ne)

end

/-- The code byte of a block, zero-extended. -/
theorem setWidth_codeByte {n : Nat} (hn : n ≤ scanCap) :
    (BitVec.ofNat 8 (n + 1)).setWidth 32 = BitVec.ofNat 32 (n + 1) :=
  BitVec.eq_of_toNat_eq (by rw [BitVec.toNat_setWidth, toNat_codeByte hn, BitVec.toNat_ofNat])

/-- Settles O40: the given run is the one the Scan counts, and each clause is one of the Scan's three outcomes. -/
theorem cnextScans : Obligations.CnextScans := by
  unfold Obligations.CnextScans
  refine ⟨encodedBy_of_reader (List.mem_of_getElem? (i := 9) rfl), fun s k => ⟨refuses_halted rfl,
    fun hrun hbad => refuses_of_running rfl hrun (firstFault_of_badContext hbad _),
    fun hrun hk hvalid hfin => refuses_of_running rfl hrun ?_,
    fun c r hrun hk hctx hvalid hfin hbr hview hnonzero hstop => ?_⟩⟩
  · simp [noContext_eq_false hk, noEncoder_eq_false hvalid, hfin]
  have hserves : s.Serves k c := State.serves_of_valid hrun hk hctx hvalid
  have hscan : s.scan c = scanOutcome c (min scanCap r) := by
    rw [State.scan, State.scanRun_eq_min hview hnonzero hstop]
  refine ⟨fun hr hin => ?_, fun hr hend => ?_, fun hr => ?_⟩
  · have hcap : r < scanCap := Nat.lt_succ_of_le hr
    rw [min_eq_right hcap.le, scanOutcome_of_zero hcap hin] at hscan
    rw [hserves.exec_cnext_scan hfin hbr hscan (terminate_of_zero rfl), setWidth_codeByte hcap.le]
  · have hcap : r < scanCap := Nat.lt_succ_of_le hr
    have hempty : BitVec.ofNat 8 r = 0#8 ↔ r = 0 := by bv_omega
    rw [min_eq_right hcap.le, scanOutcome_of_end hcap hend] at hscan
    rw [hserves.exec_cnext_scan hfin hbr hscan (terminate_of_running hfin), setWidth_codeByte hcap.le]
    simp only [hempty, and_true]
  · have hfull : 254#8 ≠ 0#8 := by decide
    rw [min_eq_left hr, scanOutcome_of_cap] at hscan
    rw [hserves.exec_cnext_scan hfin hbr hscan (terminate_of_pending hfull)]
    rfl

/-- Settles O41: the last literal leaves none to emit. -/
theorem cnextEmits : Obligations.CnextEmits := by
  unfold Obligations.CnextEmits
  intro s k c hrun hk hctx hvalid hfin hbr
  have hlast : c.br - 1#8 = 0#8 ↔ c.br = 1#8 := by bv_omega
  have hserves : s.Serves k c := State.serves_of_valid hrun hk hctx hvalid
  rw [hserves.exec_cnext_emit hfin hbr rfl (terminate_of_running hfin)]
  simp only [hlast]

/-! ### The streams of rule R166 -/

namespace CobsFrame

variable {view frame : List Byte}

theorem eq_nil_of_all_zero {v : List Byte} (hv : 0#8 ∉ v) (hzero : ∀ b ∈ v, b = 0#8) : v = [] :=
  List.eq_nil_iff_forall_not_mem.mpr fun b hb => hv (hzero b hb ▸ hb)

/-- The frame of zero bytes: each ends a block with no literal, and one such block comes after the last. -/
theorem eq_replicate_of_all_zero (h : CobsFrame view frame) (hzero : ∀ b ∈ view, b = 0#8) :
    frame = List.replicate (view.length + 1) 1#8 := by
  induction h with
  | last hlen _ hv =>
    obtain rfl := eq_nil_of_all_zero hv hzero
    subst hlen
    rfl
  | @zero v w f n hlen _ hv _ ih =>
    simp only [List.forall_mem_append, List.forall_mem_cons] at hzero
    obtain ⟨hvzero, -, hwzero⟩ := hzero
    obtain rfl := eq_nil_of_all_zero hv hvzero
    subst hlen
    rw [ih hwzero]
    rfl
  | full hlen hv =>
    obtain rfl := eq_nil_of_all_zero hv fun b hb => hzero b (List.mem_append_left _ hb)
    cases hlen

/-- The frame of at most 254 bytes with no zero is one block. -/
theorem eq_cons_of_short (h : CobsFrame view frame) (hlen : view.length ≤ scanCap) (hv : 0#8 ∉ view) :
    frame = BitVec.ofNat 8 (view.length + 1) :: view := by
  cases h with
  | last hn => rw [hn]
  | zero => simp at hv
  | full hfull _ hw =>
    rw [List.length_append, hfull] at hlen
    have := List.length_pos_of_ne_nil hw
    omega

end CobsFrame

/-- Settles O46: the collected stream is a frame of the view, and a view of either kind has one frame. -/
theorem streamEdgeCases : Obligations.StreamEdgeCases := by
  unfold Obligations.StreamEdgeCases
  intro s k base len fuel hinv hrun hk hnew hfuel
  obtain ⟨hframe, -⟩ := encodeLoop_newEncoder hinv hrun hk hnew hfuel
  rw [State.viewBytes_eq_srcSlice] at hframe ⊢
  have hlen := s.length_srcSlice base.toNat len.toNat
  refine ⟨fun hzero => ?_, fun hshort hnonzero => ?_⟩
  · have hall : ∀ b ∈ s.srcSlice base.toNat len.toNat, b = 0#8 :=
      List.forall_mem_map.mpr fun i hi => hzero i (List.mem_range.mp hi)
    rw [hframe.eq_replicate_of_all_zero hall, State.length_srcSlice]
    rfl
  · have hnone : 0#8 ∉ s.srcSlice base.toNat len.toNat := fun hmem => by
      obtain ⟨i, hi, hbyte⟩ := List.mem_map.mp hmem
      exact hnonzero i (List.mem_range.mp hi) hbyte
    exact (hframe.eq_cons_of_short (hlen.trans_le hshort) hnone).trans (by rw [State.length_srcSlice]; rfl)

end Sys2Proof.Machine
end

section
/-! PROOFS of the statements of 42_buffer_queue.md: the nine commands. The slots behind the offsets, what each command does
once it runs, and the events of the writes, said once; the results of the rules are read off these. -/

namespace Sys2Proof.Machine

open Claims Config

/-! ### The slots behind the offsets (rules R42 and R43) -/

namespace State

variable {s : State} {i j : Nat}

theorem Inv.slot_lt (hinv : s.Inv) (i : Nat) : s.slot i < s.params.c :=
  Nat.mod_lt _ (Nat.zero_lt_of_lt hinv.head)

theorem Inv.slot_zero (hinv : s.Inv) : s.slot 0 = s.ri.toNat := Nat.mod_eq_of_lt hinv.head

/-- The offset of the slot an offset names is that offset. -/
theorem Inv.offset_slot (hinv : s.Inv) (hi : i < s.params.c) :
    (s.slot i + s.params.c - s.ri.toNat) % s.params.c = i := by
  have hhead := hinv.head
  rw [offset_eq_ite (hinv.slot_lt i) hhead, hinv.slot_eq_ite hi.le]
  split_ifs <;> omega

theorem Inv.slot_inj (hinv : s.Inv) (hi : i < s.params.c) (hj : j < s.params.c) :
    s.slot i = s.slot j ↔ i = j := by
  refine ⟨fun heq => ?_, congrArg s.slot⟩
  rw [← hinv.offset_slot hi, heq, hinv.offset_slot hj]

/-- An offset that names no element reads as the empty handle (rule R43). -/
theorem Inv.handleIn_slot_of_le (hinv : s.Inv) (hfree : s.uc.toNat ≤ i) (hi : i < s.params.c) :
    s.handleIn (s.slot i) = emptyHandle :=
  hinv.emptySlots _ (hinv.slot_lt i) (by rw [Occupied, hinv.offset_slot hi]; exact Nat.not_lt.mpr hfree)

end State

/-! ### What each command does once it runs (rules R210 to R226) -/

section

variable {s effect : State} {i : Instr} {h : Handle} {f : Byte} {n : Nat} {index : Half}

theorem exec_of_running (hexec : exec i s = s.perform [(s.halted, .halted)] effect) (hrun : ¬ Halted s) :
    exec i s = .next effect :=
  hexec.trans (State.perform_of_none (by simp [halted_eq_false hrun]))

/-- A command that first asks `b`, by the answer. -/
theorem exec_ite_of_running {b : Bool} {t t' : State}
    (hexec : exec i s = s.perform [(s.halted, .halted)] (if b then t else t')) (hrun : ¬ Halted s) :
    (b = true → exec i s = .next t) ∧ (b = false → exec i s = .next t') := by
  rw [exec_of_running hexec hrun]
  exact ⟨fun hb => by rw [if_pos hb], fun hb => by rw [hb]; rfl⟩

theorem queueFull_eq_decide (s : State) : s.queueFull = decide (s.uc.toNat = s.params.c) := rfl

theorem queueEmpty_eq_decide (s : State) : s.queueEmpty = decide (s.uc = 0#16) := rfl

theorem uc_ne_zero (hpos : 0 < s.uc.toNat) : s.uc ≠ 0#16 := by
  bv_omega

theorem toNat_uc_pos (hfilled : s.uc ≠ 0#16) : 0 < s.uc.toNat := by
  bv_omega

theorem exec_qappend_of_full (hrun : ¬ Halted s) (hfull : s.uc.toNat = s.params.c) :
    exec (.qappend h f) s = .next (s.respond false 0#32) :=
  (exec_ite_of_running rfl hrun).1 (decide_eq_true hfull)

theorem exec_qappend_of_room (hrun : ¬ Halted s) (hroom : s.uc.toNat ≠ s.params.c) :
    exec (.qappend h f) s = .next ((s.pushBack h f).respondWith true 0#32 (holdEvents h)) :=
  (exec_ite_of_running rfl hrun).2 (decide_eq_false hroom)

theorem exec_qpop_of_empty (hrun : ¬ Halted s) (hempty : s.uc = 0#16) :
    exec .qpop s = .next (s.respond false 0#32) :=
  (exec_ite_of_running rfl hrun).1 (decide_eq_true hempty)

theorem exec_qpop_of_filled (hrun : ¬ Halted s) (hfilled : s.uc ≠ 0#16) :
    exec .qpop s =
      .next (s.popFront.respondWith true 0#32 (releaseEvents (s.handleIn s.ri.toNat))) :=
  (exec_ite_of_running rfl hrun).2 (decide_eq_false hfilled)

theorem exec_qsetf_of_empty (hrun : ¬ Halted s) (hempty : s.uc = 0#16) :
    exec (.qsetf f) s = .next (s.respond false 0#32) :=
  (exec_ite_of_running rfl hrun).1 (decide_eq_true hempty)

theorem exec_qsetf_of_filled (hrun : ¬ Halted s) (hfilled : s.uc ≠ 0#16) :
    exec (.qsetf f) s = .next ({ s with qf := s.qf.set s.ri.toNat f }.respond true 0#32) :=
  (exec_ite_of_running rfl hrun).2 (decide_eq_false hfilled)

theorem exec_qreset (hrun : ¬ Halted s) :
    exec .qreset s = .next (s.clearQueue.respondWith true 0#32 (s.qh.flatMap releaseEvents)) :=
  exec_of_running rfl hrun

theorem exec_qread (hrun : ¬ Halted s) :
    exec .qread s = .next (s.respond (s.isElement 0) (s.handleIn s.ri.toNat)) :=
  exec_of_running rfl hrun

theorem exec_qreadf (hrun : ¬ Halted s) :
    exec .qreadf s = .next (s.respond (s.isElement 0) ((s.flagAt 0 s.ri.toNat).setWidth 32)) :=
  exec_of_running rfl hrun

theorem exec_qpeek_of_beyond (hrun : ¬ Halted s) (hindex : s.params.c ≤ index.toNat) :
    exec (.qpeek index) s = .next (s.respond false emptyHandle) :=
  (exec_ite_of_running rfl hrun).1 (decide_eq_true hindex)

theorem exec_qpeek_of_lt (hrun : ¬ Halted s) (hindex : index.toNat < s.params.c) :
    exec (.qpeek index) s =
      .next (s.respond (s.isElement index.toNat) (s.handleIn (s.slot index.toNat))) :=
  (exec_ite_of_running rfl hrun).2 (decide_eq_false (Nat.not_le.mpr hindex))

theorem exec_qpeekf_of_beyond (hrun : ¬ Halted s) (hindex : s.params.c ≤ index.toNat) :
    exec (.qpeekf index) s = .next (s.respond false 0#32) :=
  (exec_ite_of_running rfl hrun).1 (decide_eq_true hindex)

theorem exec_qpeekf_of_lt (hrun : ¬ Halted s) (hindex : index.toNat < s.params.c) :
    exec (.qpeekf index) s = .next (s.respond (s.isElement index.toNat)
      ((s.flagAt index.toNat (s.slot index.toNat)).setWidth 32)) :=
  (exec_ite_of_running rfl hrun).2 (decide_eq_false (Nat.not_le.mpr hindex))

theorem exec_qstat (hrun : ¬ Halted s) : exec .qstat s = .next (s.respond true s.fillWord) :=
  exec_of_running rfl hrun

theorem isElement_eq_true (helem : n < s.uc.toNat) : s.isElement n = true := decide_eq_true helem

theorem isElement_eq_false (hfree : s.uc.toNat ≤ n) : s.isElement n = false :=
  decide_eq_false (Nat.not_lt.mpr hfree)

theorem flagAt_of_lt (helem : n < s.uc.toNat) (slot : Nat) : s.flagAt n slot = s.flagIn slot :=
  if_pos (isElement_eq_true helem)

end

/-! ### How many slots hold a handle (rule R203) -/

section

variable {h v : Handle}

theorem count_hold_holdEvents (hne : h ≠ emptyHandle) :
    (holdEvents v).count (.hold h) = if v = h then 1 else 0 := by
  obtain rfl | hother := eq_or_ne v h
  · simp [holdEvents, hne]
  · rw [if_neg hother]
    exact List.count_eq_zero.mpr fun hmem => hother (by simpa using (mem_holdEvents.mp hmem).2.symm)

theorem count_release_holdEvents : (holdEvents v).count (.release h) = 0 :=
  List.count_eq_zero.mpr fun hmem => by simpa using (mem_holdEvents.mp hmem).2

theorem count_release_releaseEvents (hne : h ≠ emptyHandle) :
    (releaseEvents v).count (.release h) = if v = h then 1 else 0 := by
  obtain rfl | hother := eq_or_ne v h
  · simp [releaseEvents, hne]
  · rw [if_neg hother]
    exact List.count_eq_zero.mpr fun hmem => hother (by simpa using (mem_releaseEvents.mp hmem).2.symm)

theorem count_hold_releaseEvents : (releaseEvents v).count (.hold h) = 0 :=
  List.count_eq_zero.mpr fun hmem => by simpa using (mem_releaseEvents.mp hmem).2

/-- QRESET releases a handle once for each slot that holds it (rule R224). -/
theorem count_release_flatMap (hne : h ≠ emptyHandle) (l : List Handle) :
    (l.flatMap releaseEvents).count (.release h) = l.count h := by
  induction l with
  | nil => rfl
  | cons v l ih =>
    rw [List.flatMap_cons, List.count_append, count_release_releaseEvents hne, ih, List.count_cons,
      Nat.add_comm]
    simp

theorem count_hold_flatMap (l : List Handle) : (l.flatMap releaseEvents).count (.hold h) = 0 := by
  rw [List.count_eq_zero]
  intro hmem
  obtain ⟨v, -, hv⟩ := List.mem_flatMap.mp hmem
  simpa using (mem_releaseEvents.mp hv).2

/-- A write to an element of a list takes one occurrence of the old value and adds one of the new. -/
theorem count_set_add {l : List Handle} {k : Nat} (hk : k < l.length) (v h : Handle) :
    (l.set k v).count h + (if l.getD k emptyHandle = h then 1 else 0) = l.count h + if v = h then 1 else 0 := by
  have hold : l.getD k emptyHandle = l[k] := List.getD_eq_getElem _ _ hk
  rw [List.count_set hk, hold]
  by_cases hwas : l[k] = h
  · have hpos : 0 < l.count h := List.count_pos_iff.mpr (hwas ▸ List.getElem_mem hk)
    simp only [hwas, beq_iff_eq, if_true]
    omega
  · simp [hwas]

end

/-! ### The commands that write (rules R210 to R213, R222 and R224) -/

/-- Settles O47: a queue that is not full takes the element at the write position. -/
theorem qappendStores : Obligations.QappendStores := by
  unfold Obligations.QappendStores
  refine ⟨encodedBy_of_reader (List.mem_of_getElem? (i := 11) rfl), fun s h f =>
    ⟨refuses_halted rfl, exec_qappend_of_full, fun hrun hroom => ?_⟩⟩
  have huc : s.uc + 1#16 = BitVec.ofNat 16 (s.uc.toNat + 1) := by
    rw [BitVec.ofNat_add, BitVec.ofNat_toNat, BitVec.setWidth_eq]
  rw [exec_qappend_of_room hrun hroom, ← huc]
  rfl

/-- Settles O48: a queue that is not empty gives up its head slot. -/
theorem qpopReleases : Obligations.QpopReleases := by
  unfold Obligations.QpopReleases
  refine ⟨encodedBy_of_reader (List.mem_of_getElem? (i := 12) rfl), fun s =>
    ⟨refuses_halted rfl, exec_qpop_of_empty, fun hrun hfilled => ?_⟩⟩
  have huc : s.uc - 1#16 = BitVec.ofNat 16 (s.uc.toNat - 1) := by bv_omega
  rw [exec_qpop_of_filled hrun hfilled, ← huc]
  rfl

/-- Settles O53: a queue that is not empty has a head slot to write. -/
theorem qsetfWritesHead : Obligations.QsetfWritesHead := by
  unfold Obligations.QsetfWritesHead
  exact ⟨encodedBy_of_reader (List.mem_of_getElem? (i := 17) rfl), fun s f =>
    ⟨refuses_halted rfl, exec_qsetf_of_empty, exec_qsetf_of_filled⟩⟩

/-- Settles O54: the events are the releases of the slots, one for each that holds a handle. -/
theorem qresetEmpties : Obligations.QresetEmpties := by
  unfold Obligations.QresetEmpties
  refine ⟨encodedBy_of_reader (List.mem_of_getElem? (i := 18) rfl), fun s =>
    ⟨refuses_halted rfl, fun hrun => ⟨s.qh.flatMap releaseEvents, ?_, fun e he => ?_, fun h hne =>
      count_release_flatMap hne s.qh⟩⟩⟩
  · rw [exec_qreset hrun, ← List.map_const', ← List.map_const']
    rfl
  · obtain ⟨v, -, hv⟩ := List.mem_flatMap.mp he
    exact ⟨v, mem_releaseEvents.mp hv⟩

/-! ### The commands that read (rules R214 to R220 and R226) -/

/-- Settles O49: the head is the slot at offset 0, and offset 0 is below every capacity. -/
theorem qreadReadsHead : Obligations.QreadReadsHead := by
  unfold Obligations.QreadReadsHead
  refine ⟨encodedBy_of_reader (List.mem_of_getElem? (i := 13) rfl), fun s =>
    ⟨refuses_halted rfl, exec_qread, fun hrun hinv hempty => ?_, fun hinv => ?_⟩⟩
  · have hfree : s.uc.toNat ≤ 0 := by simp [hempty]
    rw [exec_qread hrun, isElement_eq_false hfree, ← hinv.slot_zero,
      hinv.handleIn_slot_of_le hfree (Nat.zero_lt_of_lt hinv.head)]
    rfl
  · have hinside : s.beyondCapacity 0 = false := decide_eq_false (Nat.not_le.mpr (Nat.zero_lt_of_lt hinv.head))
    change execQread s = execQpeek 0#16 s
    simp [execQread, execQpeek, hinside, hinv.slot_zero]

/-- Settles O50: an offset past the elements reads an unoccupied slot, which the invariant has empty. -/
theorem qpeekReadsOffset : Obligations.QpeekReadsOffset := by
  unfold Obligations.QpeekReadsOffset
  refine ⟨encodedBy_of_reader (List.mem_of_getElem? (i := 14) rfl), fun s i =>
    ⟨refuses_halted rfl, exec_qpeek_of_beyond, exec_qpeek_of_lt, fun hrun hinv hfree => ?_⟩⟩
  obtain hbeyond | hin := le_or_gt s.params.c i.toNat
  · exact exec_qpeek_of_beyond hrun hbeyond
  · rw [exec_qpeek_of_lt hrun hin, isElement_eq_false hfree, hinv.handleIn_slot_of_le hfree hin]
    rfl

/-- Settles O51: the head slot holds an element unless the queue is empty. -/
theorem qreadfReadsHead : Obligations.QreadfReadsHead := by
  unfold Obligations.QreadfReadsHead
  refine ⟨encodedBy_of_reader (List.mem_of_getElem? (i := 15) rfl), fun s =>
    ⟨refuses_halted rfl, fun hrun hfilled => ?_, fun hrun hempty => ⟨s.flagAt 0 s.ri.toNat, ?_⟩⟩⟩
  · have helem := toNat_uc_pos hfilled
    rw [exec_qreadf hrun, isElement_eq_true helem, flagAt_of_lt helem]
    rfl
  · rw [exec_qreadf hrun, isElement_eq_false (by simp [hempty])]
    rfl

/-- Settles O52: the offset names no slot, an element, or a slot past the elements. -/
theorem qpeekfReadsOffset : Obligations.QpeekfReadsOffset := by
  unfold Obligations.QpeekfReadsOffset
  refine ⟨encodedBy_of_reader (List.mem_of_getElem? (i := 16) rfl), fun s i =>
    ⟨refuses_halted rfl, exec_qpeekf_of_beyond, fun hrun hin helem => ?_,
      fun hrun hin hfree => ⟨s.flagAt i.toNat (s.slot i.toNat), ?_⟩⟩⟩
  · rw [exec_qpeekf_of_lt hrun hin, isElement_eq_true helem, flagAt_of_lt helem]
    rfl
  · rw [exec_qpeekf_of_lt hrun hin, isElement_eq_false hfree]
    rfl

theorem getLsbD_bitWord (b : Bool) (j : Nat) : (bitWord b).getLsbD j = (b && decide (j = 0)) := by
  cases b <;> simp [bitWord]

/-- `full`, `empty` and `UC` stand in different bits of QSTAT's word (rule R226). -/
theorem getLsbD_fillWord (s : State) (j : Nat) :
    s.fillWord.getLsbD j =
      if j = 17 then s.queueFull else if j = 16 then s.queueEmpty else s.uc.getLsbD j := by
  simp only [State.fillWord, BitVec.getLsbD_or, BitVec.getLsbD_shiftLeft, getLsbD_bitWord, BitVec.getLsbD_setWidth]
  obtain rfl | h17 := eq_or_ne j 17
  · simp
  obtain rfl | h16 := eq_or_ne j 16
  · simp
  rw [if_neg h17, if_neg h16]
  obtain hlow | hhigh := Nat.lt_or_ge j 16
  · have hbelow : j < 17 ∧ j < 32 := by omega
    simp [hlow, hbelow]
  · have habove : j - 17 ≠ 0 ∧ j - 16 ≠ 0 := by omega
    simp [habove, BitVec.getLsbD_of_ge s.uc j hhigh]

/-- Settles O55: `full`, `empty` and `UC` are read at their own bits. -/
theorem qstatReportsFill : Obligations.QstatReportsFill := by
  unfold Obligations.QstatReportsFill
  refine ⟨encodedBy_of_reader (List.mem_of_getElem? (i := 19) rfl), fun s =>
    ⟨refuses_halted rfl, fun hrun => ⟨s.fillWord, exec_qstat hrun, ?_, ?_, ?_, ?_⟩⟩⟩
  · refine BitVec.eq_of_getLsbD_eq fun j hj => ?_
    rw [BitVec.getLsbD_extractLsb', getLsbD_fillWord, if_neg (by omega), if_neg (by omega)]
    simp [hj]
  · have hzero : s.uc = 0#16 ↔ s.uc.toNat = 0 := by bv_omega
    rw [getLsbD_fillWord, if_neg (by decide), if_pos rfl, queueEmpty_eq_decide, decide_eq_decide]
    exact hzero
  · exact getLsbD_fillWord s 17
  · refine BitVec.eq_of_getLsbD_eq fun j hj => ?_
    rw [BitVec.getLsbD_extractLsb', getLsbD_fillWord, if_neg (by omega), if_neg (by omega),
      BitVec.getLsbD_of_ge _ _ (by omega)]
    simp

end Sys2Proof.Machine
end

section
/-! PROOFS of the statements of 42_buffer_queue.md: the event law. Each write of the queue changes how many slots hold a
handle by what its events account for. -/

namespace Sys2Proof.Machine

open Config

/-! ### The event law (rule R203) -/

namespace State

variable {s t u : State} {events : List Event}

theorem EventLaw.raise (hlaw : s.EventLaw) (e : ErrCode) : (s.raise e).EventLaw := hlaw

theorem hardwareReset_eventLaw (s : State) : s.hardwareReset.EventLaw := resetWith_eventLaw s.params

/-- The law is kept by a write to the slots and a response whose holds and releases account for it. -/
theorem EventLaw.respondWith (hlaw : s.EventLaw) (hresp : u.responses = s.responses) (ok : Bool) (data : Word)
    (hbalance : ∀ h, h ≠ emptyHandle →
      events.count (.hold h) + s.qh.count h = events.count (.release h) + u.qh.count h) :
    (u.respondWith ok data events).EventLaw := by
  intro h hne
  have hbefore := hlaw h hne
  have hnow := hbalance h hne
  simp only [holdsOf, releasesOf, respondWith_responses, respondWith_qh, List.flatMap_cons, List.count_append,
    hresp] at hbefore ⊢
  omega

theorem EventLaw.respond (hlaw : s.EventLaw) (ok : Bool) (data : Word) : (s.respond ok data).EventLaw :=
  hlaw.respondWith rfl ok data fun _ _ => rfl

theorem EventLaw.pushBack (hinv : s.Inv) (hlaw : s.EventLaw) (hroom : s.uc.toNat ≠ s.params.c) (h : Handle)
    (f : Byte) : ((s.pushBack h f).respondWith true 0#32 (holdEvents h)).EventLaw := by
  refine hlaw.respondWith (u := s.pushBack h f) rfl _ _ fun h' hne => ?_
  have hslot : s.slot s.uc.toNat < s.qh.length := hinv.handles ▸ hinv.slot_lt _
  have hempty : s.qh.getD (s.slot s.uc.toNat) emptyHandle = emptyHandle :=
    hinv.handleIn_slot_of_le le_rfl (lt_of_le_of_ne hinv.fill hroom)
  have hcount := count_set_add hslot h h'
  rw [hempty, if_neg hne.symm] at hcount
  rw [count_hold_holdEvents hne, count_release_holdEvents, pushBack_qh]
  omega

theorem EventLaw.popFront (hinv : s.Inv) (hlaw : s.EventLaw) :
    (s.popFront.respondWith true 0#32 (releaseEvents (s.handleIn s.ri.toNat))).EventLaw := by
  refine hlaw.respondWith (u := s.popFront) rfl _ _ fun h hne => ?_
  have hcount := count_set_add (hinv.handles ▸ hinv.head) emptyHandle h
  rw [if_neg hne.symm] at hcount
  rw [count_hold_releaseEvents, count_release_releaseEvents hne, popFront_qh, handleIn]
  omega

theorem EventLaw.clearQueue (hlaw : s.EventLaw) :
    (s.clearQueue.respondWith true 0#32 (s.qh.flatMap releaseEvents)).EventLaw := by
  refine hlaw.respondWith (u := s.clearQueue) rfl _ _ fun h hne => ?_
  have hnone : s.clearQueue.qh.count h = 0 :=
    List.count_eq_zero.mpr fun hmem => by
      obtain ⟨-, -, heq⟩ := List.mem_map.mp hmem
      exact hne heq.symm
  rw [count_hold_flatMap, count_release_flatMap hne, hnone, Nat.zero_add, Nat.add_zero]

/-- A command whose effect keeps the law keeps it, for a fault reports no event. -/
theorem EventLaw.perform {checks : List (Bool × ErrCode)} (hlaw : s.EventLaw)
    (hperform : s.perform checks u = .next t) (hu : u.EventLaw) : t.EventLaw := by
  obtain ⟨heq, -⟩ | ⟨e, heq, -⟩ := s.perform_cases u checks <;>
    obtain rfl := Host.Outcome.next.inj (heq.symm.trans hperform)
  · exact hu
  · exact hlaw.raise e

/-- The other commands report no event and write no slot. -/
theorem EventLaw.of_eventsOf_nil {i : Instr} (hlaw : s.EventLaw) (hexec : exec i s = .next t)
    (hi : eventsOf s i = []) (hqh : t.qh = s.qh) : t.EventLaw := by
  obtain ⟨_, heq, u, ok, data, events, rfl, -, hresp, hev⟩ | ⟨e, heq⟩ := exec_answers i s <;>
    obtain rfl := Host.Outcome.next.inj (heq.symm.trans hexec)
  · obtain rfl : events = [] := by rwa [hi, or_self] at hev
    refine hlaw.respondWith hresp ok data fun h _ => ?_
    rw [← hqh]
    rfl
  · exact hlaw.raise e

theorem EventLaw.exec {i : Instr} (hinv : s.Inv) (hlaw : s.EventLaw) (hexec : exec i s = .next t) :
    t.EventLaw := by
  obtain ⟨-, -, hqh, -⟩ := spacesWrittenOnlyBy i s t hexec
  cases i with
  | qappend h f =>
    refine hlaw.perform hexec ?_
    split_ifs with hfull
    · exact hlaw.respond _ _
    · exact hlaw.pushBack hinv (fun heq => hfull (decide_eq_true heq)) h f
  | qpop =>
    refine hlaw.perform hexec ?_
    split_ifs
    · exact hlaw.respond _ _
    · exact hlaw.popFront hinv
  | qreset => exact hlaw.perform hexec hlaw.clearQueue
  | _ => exact hlaw.of_eventsOf_nil hexec rfl (hqh (by simp) (by simp) (by simp))

end State

/-- Settles O14: QAPPEND stores into a slot that held no handle, QPOP and QRESET release what the slots they empty held, and
nothing else writes a slot or reports an event; hardware reset empties the slots and forgets the events. -/
theorem stepKeepsEventLaw : Obligations.StepKeepsEventLaw := by
  unfold Obligations.StepKeepsEventLaw
  intro s t hinv hlaw hstep
  obtain ⟨-, heq⟩ | ⟨cut, rest, -, heq⟩ | ⟨w, i, rest, -, -, heq⟩ | ⟨w, e, rest, -, -, heq⟩ := step_cases s
  · obtain rfl := Host.Outcome.next.inj (heq.symm.trans hstep)
    exact hlaw
  · obtain rfl := Host.Outcome.next.inj (heq.symm.trans hstep)
    exact State.hardwareReset_eventLaw _
  · exact State.EventLaw.exec (hinv.takeInput rest) hlaw (heq.symm.trans hstep)
  · rw [State.rejectWord_eq] at heq
    obtain rfl := Host.Outcome.next.inj (heq.symm.trans hstep)
    exact hlaw

end Sys2Proof.Machine
end

section
/-! PROOFS of the statements of 42_buffer_queue.md: the laws of rule R230. The list of elements under each write of the
queue, and runs of commands that all answer true. -/

namespace Sys2Proof.Machine

open Claims Config

/-! ### The registers after an append and a pop (rule R231) -/

namespace State

variable {s : State} {i k : Nat}

theorem Inv.toNat_uc_pushBack (hinv : s.Inv) (hroom : s.uc.toNat < s.params.c) (h : Handle) (f : Byte) :
    (s.pushBack h f).uc.toNat = s.uc.toNat + 1 := by
  obtain ⟨-, -, -, -, hmax⟩ := hinv.params
  rw [pushBack_uc]
  bv_omega

theorem toNat_uc_popFront (hfilled : s.uc ≠ 0#16) : s.popFront.uc.toNat = s.uc.toNat - 1 := by
  rw [popFront_uc]
  bv_omega

/-- After a pop an offset names the slot that the next one named before. -/
theorem Inv.slot_popFront (hinv : s.Inv) (i : Nat) : s.popFront.slot i = s.slot (i + 1) := by
  obtain ⟨-, -, -, -, hmax⟩ := hinv.params
  have hslot := hinv.slot_lt 1
  have hri : s.popFront.ri.toNat = s.slot 1 := by
    rw [popFront_ri, toNat_ofNat_of_lt (by omega)]
  rw [slot, hri, popFront_params, slot, Nat.mod_add_mod, slot, Nat.add_assoc, Nat.add_comm 1 i]

/-! ### The elements of the queue (rule R42) -/

/-- What the slot at offset `i` from the head holds. -/
def elementAt (s : State) (i : Nat) : Handle × Byte := (s.handleIn (s.slot i), s.flagIn (s.slot i))

theorem elements_eq_map (s : State) : s.elements = (List.range s.uc.toNat).map s.elementAt := rfl

theorem getElem?_elements (s : State) (hi : i < s.uc.toNat) : s.elements[i]? = some (s.elementAt i) := by
  simp [elements_eq_map, hi]

/-- The first element and those after it. -/
theorem elements_eq_cons (hfilled : s.uc ≠ 0#16) :
    s.elements = s.elementAt 0 :: (List.range (s.uc.toNat - 1)).map fun i => s.elementAt (i + 1) := by
  obtain ⟨n, hn⟩ := Nat.exists_eq_add_one.mpr (toNat_uc_pos hfilled)
  rw [elements_eq_map, hn, List.range_succ_eq_map]
  simp

/-- A write at offset `k` is read at offset `k` and at no other. -/
theorem Inv.getD_set_slot {α : Type} (hinv : s.Inv) {l : List α} (hl : l.length = s.params.c) (hi : i < s.params.c)
    (hk : k < s.params.c) (v d : α) :
    (l.set (s.slot k) v).getD (s.slot i) d = if k = i then v else l.getD (s.slot i) d := by
  rw [getD_set_of_lt _ (hl ▸ hinv.slot_lt i)]
  simp only [hinv.slot_inj hk hi]

theorem Inv.elementAt_pushBack (hinv : s.Inv) (hroom : s.uc.toNat < s.params.c) (h : Handle) (f : Byte)
    (hi : i < s.params.c) :
    (s.pushBack h f).elementAt i = if s.uc.toNat = i then (h, f) else s.elementAt i := by
  have hhandle := hinv.getD_set_slot hinv.handles hi hroom h emptyHandle
  have hflag := hinv.getD_set_slot hinv.flags hi hroom f 0#8
  have heq : (s.pushBack h f).elementAt i = (if s.uc.toNat = i then h else s.handleIn (s.slot i),
      if s.uc.toNat = i then f else s.flagIn (s.slot i)) := Prod.ext hhandle hflag
  rw [heq]
  split_ifs <;> rfl

theorem Inv.elementAt_popFront (hinv : s.Inv) (hi : i + 1 < s.params.c) :
    s.popFront.elementAt i = s.elementAt (i + 1) := by
  have hhandle := hinv.getD_set_slot hinv.handles hi (Nat.zero_lt_of_lt hi) emptyHandle emptyHandle
  rw [hinv.slot_zero, if_neg (Nat.zero_ne_add_one i)] at hhandle
  rw [elementAt, hinv.slot_popFront]
  exact Prod.ext hhandle rfl

theorem Inv.elementAt_setFlags (hinv : s.Inv) (f : Byte) (hi : i < s.params.c) :
    { s with qf := s.qf.set s.ri.toNat f }.elementAt i =
      ((s.elementAt i).1, if 0 = i then f else (s.elementAt i).2) := by
  have hflag := hinv.getD_set_slot hinv.flags hi (Nat.zero_lt_of_lt hi) f 0#8
  rw [hinv.slot_zero] at hflag
  exact Prod.ext rfl hflag

theorem Inv.elements_pushBack (hinv : s.Inv) (hroom : s.uc.toNat < s.params.c) (h : Handle) (f : Byte) :
    (s.pushBack h f).elements = s.elements ++ [(h, f)] := by
  have hkept : (List.range s.uc.toNat).map (s.pushBack h f).elementAt = s.elements :=
    List.map_congr_left fun i hi => by
      have hlt := List.mem_range.mp hi
      rw [hinv.elementAt_pushBack hroom h f (hlt.trans hroom), if_neg hlt.ne']
      rfl
  rw [elements_eq_map, hinv.toNat_uc_pushBack hroom, List.range_succ, List.map_append, hkept, List.map_singleton,
    hinv.elementAt_pushBack hroom h f hroom, if_pos rfl]

theorem Inv.elements_popFront (hinv : s.Inv) (hfilled : s.uc ≠ 0#16) :
    s.popFront.elements = s.elements.tail := by
  rw [elements_eq_cons hfilled, elements_eq_map, toNat_uc_popFront hfilled, List.tail_cons]
  refine List.map_congr_left fun i hi => hinv.elementAt_popFront ?_
  have hlt := List.mem_range.mp hi
  have hfill := hinv.fill
  omega

theorem Inv.elements_setFlags (hinv : s.Inv) (hfilled : s.uc ≠ 0#16) (f : Byte) :
    { s with qf := s.qf.set s.ri.toNat f }.elements =
      ((s.elementAt 0).1, f) :: (List.range (s.uc.toNat - 1)).map fun i => s.elementAt (i + 1) := by
  refine (elements_eq_cons (s := { s with qf := s.qf.set s.ri.toNat f }) hfilled).trans
    (congrArg₂ _ (hinv.elementAt_setFlags f (Nat.zero_lt_of_lt hinv.head))
      (List.map_congr_left fun i hi => hinv.elementAt_setFlags f (i := i + 1) ?_))
  have hlt : i < s.uc.toNat - 1 := List.mem_range.mp hi
  have hfill := hinv.fill
  omega

end State

/-- Settles O56: a write to the slot of one offset is read at that offset only, and a pop moves the offsets on by one. -/
theorem queueIsFifo : Obligations.QueueIsFifo := by
  unfold Obligations.QueueIsFifo
  refine fun s hinv hrun => ⟨fun h f hroom =>
      ⟨_, exec_qappend_of_room hrun hroom.ne, hinv.elements_pushBack hroom h f⟩,
    fun hpos => ?_, fun f hpos => ?_, ⟨_, exec_qreset hrun, rfl⟩, fun i helem => ?_⟩
  · have hfilled := uc_ne_zero hpos
    exact ⟨_, exec_qpop_of_filled hrun hfilled, hinv.elements_popFront hfilled⟩
  · have hfilled := uc_ne_zero hpos
    exact ⟨_, _, _, _, exec_qsetf_of_filled hrun hfilled, State.elements_eq_cons hfilled,
      hinv.elements_setFlags hfilled f⟩
  · have hin := helem.trans_le hinv.fill
    refine ⟨_, s.getElem?_elements helem, ?_, ?_⟩
    · rw [exec_qpeek_of_lt hrun hin, isElement_eq_true helem]
      rfl
    · rw [exec_qpeekf_of_lt hrun hin, isElement_eq_true helem, flagAt_of_lt helem]
      rfl

/-! ### Runs of commands that all answer true (rule R230) -/

/-- `t` has `n` more responses than `s`, all with `ok = 1`. -/
def AllOk (n : Nat) (s t : State) : Prop :=
  ∃ rs : List Response, rs.length = n ∧ t.responses = rs ++ s.responses ∧ ∀ r ∈ rs, r.ok = true

theorem AllOk.ok_of_mem_take {n : Nat} {s t : State} (hok : AllOk n s t) :
    ∀ r ∈ t.responses.take n, r.ok = true := by
  obtain ⟨rs, hlen, hresp, hrs⟩ := hok
  rwa [hresp, List.take_left' hlen]

/-- Where every command of a list brings the state from `P (k + 1)` to `P k` and answers true, the list brings it from `P` at
its length to `P 0`. -/
theorem runAll_allOk {P : Nat → State → Prop} {is : List Instr}
    (hstep : ∀ i ∈ is, ∀ k s, P (k + 1) s → ∃ t, exec i s = .next t ∧ P k t ∧ AllOk 1 s t) {s : State}
    (hs : P is.length s) : ∃ t, runAll is s = .next t ∧ P 0 t ∧ AllOk is.length s t := by
  induction is generalizing s with
  | nil => exact ⟨s, rfl, hs, [], rfl, rfl, by simp⟩
  | cons i is ih =>
    obtain ⟨u, hexec, hu, rs, hlen, hresp, hok⟩ := hstep i List.mem_cons_self _ s hs
    obtain ⟨t, hrun, ht, rs', hlen', hresp', hok'⟩ := ih (fun j hj => hstep j (List.mem_cons_of_mem i hj)) hu
    refine ⟨t, by rw [runAll, hexec]; exact hrun, ht, rs' ++ rs, ?_, ?_, ?_⟩
    · rw [List.length_append, hlen, hlen', List.length_cons]
    · rw [hresp', hresp, List.append_assoc]
    · exact List.forall_mem_append.mpr ⟨hok', hok⟩

/-- A running block whose queue has `c` slots and `n` elements. -/
structure Holds (c n : Nat) (s : State) : Prop where
  inv : s.Inv
  running : ¬ Halted s
  capacity : s.params.c = c
  fill : s.uc.toNat = n

/-- A running block whose queue of `c` slots has room for `k` more elements. -/
def HasRoom (c k : Nat) (s : State) : Prop := ∃ n, n + k = c ∧ Holds c n s

namespace Holds

variable {c n : Nat} {s : State}

theorem exec_qappend (hs : Holds c n s) (hroom : n < c) (h : Handle) (f : Byte) :
    ∃ t, exec (.qappend h f) s = .next t ∧ Holds c (n + 1) t ∧ AllOk 1 s t := by
  obtain ⟨hinv, hrun, rfl, rfl⟩ := hs
  have hkeeps := (hinv.pushBack (decide_eq_false hroom.ne) h f).respondWith true 0#32 (holdEvents h)
  exact ⟨_, exec_qappend_of_room hrun hroom.ne, ⟨hkeeps, hrun, rfl, hinv.toNat_uc_pushBack hroom h f⟩,
    [_], rfl, rfl, by simp⟩

theorem exec_qpop (hs : Holds c (n + 1) s) : ∃ t, exec .qpop s = .next t ∧ Holds c n t ∧ AllOk 1 s t := by
  obtain ⟨hinv, hrun, hc, hn⟩ := hs
  have hfilled : s.uc ≠ 0#16 := uc_ne_zero (by omega)
  have hkeeps := (hinv.popFront (decide_eq_false hfilled)).respondWith true 0#32
    (releaseEvents (s.handleIn s.ri.toNat))
  have huc : s.popFront.uc.toNat = n := by rw [State.toNat_uc_popFront hfilled, hn, Nat.add_sub_cancel]
  exact ⟨_, exec_qpop_of_filled hrun hfilled, ⟨hkeeps, hrun, hc, huc⟩, [_], rfl, rfl, by simp⟩

end Holds

theorem HasRoom.exec_qappend {c k : Nat} {s : State} (hs : HasRoom c (k + 1) s) (h : Handle) (f : Byte) :
    ∃ t, exec (.qappend h f) s = .next t ∧ HasRoom c k t ∧ AllOk 1 s t := by
  obtain ⟨n, hn, hs⟩ := hs
  obtain ⟨t, hexec, ht, hok⟩ := hs.exec_qappend (by omega) h f
  exact ⟨t, hexec, ⟨n + 1, by omega, ht⟩, hok⟩

namespace Holds

variable {c n : Nat} {s : State}

theorem runAll_appends {appends : List Instr} (hs : Holds c 0 s) (hlen : appends.length = c)
    (happends : ∀ i ∈ appends, ∃ h f, i = .qappend h f) :
    ∃ t, runAll appends s = .next t ∧ Holds c c t ∧ AllOk c s t := by
  have hroom : HasRoom c appends.length s := ⟨0, by omega, hs⟩
  obtain ⟨t, hrun, ⟨n, rfl, ht⟩, hok⟩ := runAll_allOk (P := HasRoom c) (fun i hi k u hu => by
    obtain ⟨h, f, rfl⟩ := happends i hi
    exact hu.exec_qappend h f) hroom
  exact ⟨t, hrun, ht, hlen ▸ hok⟩

theorem runAll_pops (hs : Holds c n s) :
    ∃ t, runAll (List.replicate n .qpop) s = .next t ∧ Holds c 0 t ∧ AllOk n s t := by
  have hrun := runAll_allOk (P := Holds c) (is := List.replicate n .qpop) (s := s) fun i hi k u hu => by
    obtain rfl := List.eq_of_mem_replicate hi
    exact hu.exec_qpop
  rw [List.length_replicate] at hrun
  exact hrun hs

end Holds

/-- Settles O57: each append finds the queue one short of what the next finds, and each pop takes one element back. -/
theorem capacityIsExact : Obligations.CapacityIsExact := by
  unfold Obligations.CapacityIsExact
  intro s appends hinv hrun hempty hlen happends
  have hs : Holds s.params.c 0 s := ⟨hinv, hrun, rfl, by simp [hempty]⟩
  obtain ⟨t, happended, ht, htok⟩ := hs.runAll_appends hlen happends
  obtain ⟨u, hpopped, hu, huok⟩ := ht.runAll_pops
  have hfull : t.uc.toNat = t.params.c := ht.fill.trans ht.capacity.symm
  have huc : u.uc = 0#16 := BitVec.eq_of_toNat_eq hu.fill
  refine ⟨t, u, happended, htok.ok_of_mem_take, fun h f => exec_qappend_of_full ht.running hfull, hpopped,
    huok.ok_of_mem_take, huc, ?_⟩
  have hroom : u.queueFull = false := by
    have hhead := hu.inv.head
    rw [queueFull_eq_decide, hu.fill]
    exact decide_eq_false (by omega)
  rw [exec_qstat hu.running, State.fillWord, hroom, queueEmpty_eq_decide, huc]
  rfl

end Sys2Proof.Machine
end

section
/-! PROOFS of the statements of 43_system_commands.md. The checks of MRD and MWR on a space and a byte address, said once
for both commands and for each of the two memories; then the three commands. -/

namespace Sys2Proof.Machine

open Claims

/-! ### A byte address of a space (rules R73, R93 and R108) -/

theorem reservedSpace_eq_true {space : BitVec 4} (hreserved : 2 ≤ space.toNat) : reservedSpace space = true := by
  have hbad : goodSpace space = false := decide_eq_false (by omega)
  rw [reservedSpace, hbad]
  rfl

theorem reservedSpace_arr : reservedSpace 0#4 = false := rfl

theorem reservedSpace_src : reservedSpace 1#4 = false := rfl

theorem outsideSpace_arr (s : State) (addr : Half) :
    s.outsideSpace 0#4 addr = decide (s.params.nA ≤ addr.toNat) := rfl

theorem outsideSpace_src (s : State) (addr : Half) :
    s.outsideSpace 1#4 addr = decide (s.params.nS ≤ addr.toNat) := rfl

/-! ### The checks of MRD and MWR (rules R240 and R242) -/

/-- What the rules of MRD and MWR say of a command on a space, from its checks: which faults it takes, and that
otherwise it has the effect it names for the space. -/
theorem space_outcomes {s : State} {addr : Half} {command : BitVec 4 → Instr} {effect : BitVec 4 → State}
    (hexec : ∀ space, exec (command space) s = s.perform
      [(s.halted, .halted), (reservedSpace space, .illegal), (s.outsideSpace space addr, .range)]
      (effect space)) (space : BitVec 4) :
    (Halted s → Refuses (command space) s .halted) ∧
    (¬ Halted s → 2 ≤ space.toNat → Refuses (command space) s .illegal) ∧
    (¬ Halted s → s.params.nA ≤ addr.toNat → Refuses (command 0#4) s .range) ∧
    (¬ Halted s → s.params.nS ≤ addr.toNat → Refuses (command 1#4) s .range) ∧
    (¬ Halted s → addr.toNat < s.params.nA → exec (command 0#4) s = .next (effect 0#4)) ∧
    (¬ Halted s → addr.toNat < s.params.nS → exec (command 1#4) s = .next (effect 1#4)) := by
  refine ⟨refuses_halted (hexec space), fun hrun hreserved => refuses_of_running (hexec space) hrun ?_,
    fun hrun hout => refuses_of_running (hexec 0#4) hrun ?_,
    fun hrun hout => refuses_of_running (hexec 1#4) hrun ?_,
    fun hrun hin => (hexec 0#4).trans (State.perform_of_none ?_),
    fun hrun hin => (hexec 1#4).trans (State.perform_of_none ?_)⟩
  · simp [reservedSpace_eq_true hreserved]
  · simp [reservedSpace_arr, outsideSpace_arr, hout]
  · simp [reservedSpace_src, outsideSpace_src, hout]
  · simp [halted_eq_false hrun, reservedSpace_arr, outsideSpace_arr, hin]
  · simp [halted_eq_false hrun, reservedSpace_src, outsideSpace_src, hin]

/-! ### The three commands (rules R240 to R244) -/

/-- Settles O27: the byte of the space is the byte of `ARR` or of `SRC`. -/
theorem mrdReadsByte : Obligations.MrdReadsByte := by
  unfold Obligations.MrdReadsByte
  exact ⟨encodedBy_of_reader (List.mem_of_getElem? (i := 0) rfl), fun s space addr =>
    space_outcomes (command := (.mrd · addr)) (fun _ => rfl) space⟩

/-- Settles O28: the write to the space is a write of one byte of `ARR` or of `SRC`. -/
theorem mwrWritesByte : Obligations.MwrWritesByte := by
  unfold Obligations.MwrWritesByte
  refine ⟨encodedBy_of_reader (List.mem_of_getElem? (i := 1) rfl), fun s space addr data => ?_⟩
  obtain ⟨hhalted, hillegal, harrRange, hsrcRange, harr, hsrc⟩ :=
    space_outcomes (s := s) (command := (.mwr · addr data)) (fun _ => rfl) space
  exact ⟨hhalted, hillegal, harrRange, hsrcRange,
    fun hrun hin => ⟨_, harr hrun hin, rfl, fun a => s.arrByte_writeArr a addr.toNat data⟩,
    fun hrun hin => ⟨_, hsrc hrun hin, rfl, fun a => s.srcByte_writeSrc a addr.toNat data⟩⟩

/-- Settles O29: FSTAT has no check, so it answers halted or not. -/
theorem fstatReadsFaultRegister : Obligations.FstatReadsFaultRegister := by
  unfold Obligations.FstatReadsFaultRegister
  refine ⟨encodedBy_of_reader (List.mem_of_getElem? (i := 2) rfl), fun s => ?_⟩
  rw [BitVec.ofNat_toNat]
  exact State.perform_of_none (s := s) firstFault_nil

end Sys2Proof.Machine
end

section
/-! PROOFS of the statements of 60_exceptions.md. The list of rule R270, said once for all commands: a command takes the
first fault of the list or it concludes, and a conclusion answers a boolean `false` only where rule R271 says so. -/

namespace Sys2Proof.Machine

open Claims Config

/-! ### The list of rule R270 -/

open Classical in
/-- The first fault of rule R270's list whose condition holds for the command. -/
noncomputable def faultOf (s : State) (i : Instr) : Option ErrCode :=
  if s.halted = true ∧ i ≠ .fstat then some .halted
  else if HasReservedSpace i then some .illegal
  else if HasBadDescriptor i then some .desc
  else if HasBadContext s i then some .ctx
  else if HasBadRange s i then some .range
  else if HasFinished s i then some .finished
  else none

section

variable {s : State} {i : Instr} {e : ErrCode}

theorem faultOf_of_reports (h : Reports s i e) : (faultOf s i).getD .none = e := by
  unfold faultOf
  obtain ⟨hhalt, hi, rfl⟩ | ⟨hrun, hfirst⟩ := h
  · rw [if_pos ⟨hhalt, hi⟩]
    rfl
  · rw [if_neg (by obtain hrun | rfl := hrun <;> simp [*])]
    obtain ⟨hspace, rfl⟩ | ⟨hspace, hdesc, rfl⟩ | ⟨hspace, hdesc, hctx, rfl⟩ |
      ⟨hspace, hdesc, hctx, hrange, rfl⟩ | ⟨hspace, hdesc, hctx, hrange, hfin, rfl⟩ |
      ⟨hspace, hdesc, hctx, hrange, hfin, rfl⟩ := hfirst <;>
      simp [*]

theorem faultOf_of_halted (hhalt : Halted s) (hi : i ≠ .fstat) : faultOf s i = some .halted :=
  if_pos ⟨hhalt, hi⟩

theorem faultOf_of_reservedSpace (hrun : ¬ Halted s) (hspace : HasReservedSpace i) :
    faultOf s i = some .illegal := by
  rw [faultOf, if_neg fun h => hrun h.1, if_pos hspace]

theorem faultOf_ne_some_none : faultOf s i ≠ some .none := by
  unfold faultOf
  split_ifs <;> simp

end

/-! ### The checks of the commands, as conditions (rules R73, R108, R109 and R266) -/

section

variable (s : State) (space k : BitVec 4) (addr start stop base len : Half)

theorem reservedSpace_iff : reservedSpace space = true ↔ 2 ≤ space.toNat := by
  simp only [reservedSpace, Bool.not_eq_true', decide_eq_false_iff_not]
  omega

theorem malformedRange_iff : malformedRange start stop = true ↔ Malformed start stop := by
  refine ⟨fun h => ?_, malformedRange_of_malformed⟩
  by_contra hgood
  simp [malformedRange_eq_false hgood] at h

theorem noContext_iff : s.noContext k = true ↔ s.params.nCtx ≤ k.toNat := decide_eq_true_iff

theorem noEncoder_iff : s.noEncoder k = true ↔ (s.getCtx k).valid = false := by
  simp [State.noEncoder]

theorem outsideSrc_iff : s.outsideSrc base len = true ↔ s.params.nS < base.toNat + len.toNat := decide_eq_true_iff

theorem outsideArr_iff : s.outsideArr stop = true ↔ s.params.nA ≤ stop.toNat / 8 := decide_eq_true_iff

theorem outsideSpace_iff : s.outsideSpace space addr = true ↔
    (if space = 0#4 then s.params.nA else s.params.nS) ≤ addr.toNat := decide_eq_true_iff

theorem uc_eq_zero_of_isElement {s : State} (h : s.isElement 0 = false) : s.uc = 0#16 := by
  have hfree : ¬ 0 < s.uc.toNat := of_decide_eq_false h
  bv_omega

end

/-! ### The end of a command that takes no fault (rules R270 and R271) -/

/-- The cases in which rule R271 has a command answer a boolean `false`. -/
def AnswersFalse (s : State) : Instr → Prop
  | .qappend _ _ => s.uc.toNat = s.params.c
  | .qpop | .qread | .qreadf | .qsetf _ => s.uc = 0#16
  | .qpeek index | .qpeekf index => s.params.c ≤ index.toNat ∨ s.uc.toNat ≤ index.toNat
  | _ => False

/-- `t` is an end of the command `i`, run in `s`, without a fault: one response with `err = 0`, `FAULT` as it was, and a
boolean `false` only in the cases of rule R271 and with no change. -/
def Concludes (i : Instr) (s t : State) : Prop :=
  ∃ u ok data events, t = State.respondWith u ok data events ∧ u.responses = s.responses ∧
    u.faultReg = s.faultReg ∧ (ok = false → u = s ∧ AnswersFalse s i)

section

variable {i : Instr} {s t u : State} {b : Bool} {data : Word} {events : List Event}

theorem concludes_true (hresp : u.responses = s.responses) (hfault : u.faultReg = s.faultReg) :
    Concludes i s (u.respondWith true data events) :=
  ⟨u, true, data, events, rfl, hresp, hfault, nofun⟩

theorem concludes_respond (hok : b = false → AnswersFalse s i) : Concludes i s (s.respond b data) :=
  ⟨s, b, data, [], rfl, rfl, rfl, fun hb => ⟨rfl, hok hb⟩⟩

/-- A command that answers `false` if `b`. -/
theorem concludes_ite (hb : b = true → AnswersFalse s i) (ht : Concludes i s t) :
    Concludes i s (if b then s.respond false data else t) := by
  cases b with
  | true => exact concludes_respond fun _ => hb rfl
  | false => exact ht

end

/-! ### Every command runs the list of rule R270 -/

/-- The checks of a command, in the order of its rule. -/
def checksOf (s : State) : Instr → List (Bool × ErrCode)
  | .fstat => []
  | .mrd space addr | .mwr space addr _ =>
    [(s.halted, .halted), (reservedSpace space, .illegal), (s.outsideSpace space addr, .range)]
  | .brd start stop | .bwr start stop _ =>
    [(s.halted, .halted), (malformedRange start stop, .desc), (s.outsideArr stop, .range)]
  | .bget offset | .bput offset _ => [(s.halted, .halted), (s.outsideArr offset, .range)]
  | .cinit k base len => [(s.halted, .halted), (s.noContext k, .ctx), (s.outsideSrc base len, .range)]
  | .cfin k => [(s.halted, .halted), (s.noContext k, .ctx), (s.noEncoder k, .ctx)]
  | .cnext k =>
    [(s.halted, .halted), (s.noContext k, .ctx), (s.noEncoder k, .ctx), ((s.getCtx k).fin, .finished)]
  | .ccopy k k2 =>
    [(s.halted, .halted), (s.noContext k, .ctx), (s.noContext k2, .ctx), (s.noEncoder k2, .ctx)]
  | _ => [(s.halted, .halted)]

theorem exec_eq_perform (i : Instr) (s : State) :
    ∃ t, exec i s = s.perform (checksOf s i) t ∧ Concludes i s t := by
  cases i with
  | fstat | mrd | brd | bget | bput | cinit | cfin | cnext | ccopy | qreset | qstat =>
    exact ⟨_, rfl, concludes_true rfl rfl⟩
  | mwr space addr data =>
    obtain ⟨m, m', hm⟩ := s.writeSpace_changes_only_memories space addr data
    exact ⟨_, rfl, concludes_true (by rw [hm]) (by rw [hm])⟩
  | bwr start stop value =>
    obtain ⟨m, hm⟩ := s.writeRange_changes_only_arr start stop value
    exact ⟨_, rfl, concludes_true (by rw [hm]) (by rw [hm])⟩
  | qappend | qpop | qsetf =>
    exact ⟨_, rfl, concludes_ite of_decide_eq_true (concludes_true rfl rfl)⟩
  | qread | qreadf => exact ⟨_, rfl, concludes_respond uc_eq_zero_of_isElement⟩
  | qpeek | qpeekf =>
    exact ⟨_, rfl, concludes_ite (fun hbeyond => .inl (of_decide_eq_true hbeyond))
      (concludes_respond fun hfree => .inr (Nat.le_of_not_lt (of_decide_eq_false hfree)))⟩

theorem firstFault_checksOf (s : State) (i : Instr) : firstFault (checksOf s i) = faultOf s i := by
  cases i with
  | mrd | mwr =>
    simp [checksOf, faultOf, HasReservedSpace, HasBadDescriptor, HasBadContext, HasBadRange, HasFinished,
      reservedSpace_iff, outsideSpace_iff]
  | brd | bwr | bget | bput =>
    simp [checksOf, faultOf, HasReservedSpace, HasBadDescriptor, HasBadContext, HasBadRange, HasFinished,
      malformedRange_iff, outsideArr_iff]
  | cinit | cfin | ccopy =>
    simp [checksOf, faultOf, HasReservedSpace, HasBadDescriptor, HasBadContext, HasBadRange, HasFinished,
      noContext_iff, noEncoder_iff, outsideSrc_iff, ite_or]
  | cnext =>
    simp [checksOf, faultOf, HasReservedSpace, HasBadDescriptor, HasBadContext, HasBadRange, HasFinished,
      noContext_iff, noEncoder_iff, ite_or]
    congr -- the two sides decide `fin = true` by different instances
  | _ =>
    simp [checksOf, faultOf, HasReservedSpace, HasBadDescriptor, HasBadContext, HasBadRange, HasFinished]

/-- Everything a command can do: it takes the first fault of rule R270's list, or there is none and it concludes. -/
theorem exec_cases (i : Instr) (s : State) :
    (∃ e, faultOf s i = some e ∧ exec i s = .next (s.raise e)) ∨
    ∃ t, faultOf s i = none ∧ exec i s = .next t ∧ Concludes i s t := by
  obtain ⟨t, hexec, ht⟩ := exec_eq_perform i s
  rw [← firstFault_checksOf, hexec]
  obtain ⟨hperform, hnone⟩ | ⟨e, hperform, hfault⟩ := s.perform_cases t (checksOf s i)
  · exact .inr ⟨t, hnone, hperform, ht⟩
  · exact .inl ⟨e, hfault, hperform⟩

theorem exec_of_faultOf {i : Instr} {s : State} {e : ErrCode} (h : faultOf s i = some e) :
    exec i s = .next (s.raise e) := by
  obtain ⟨e', hfault, hexec⟩ | ⟨t, hnone, -⟩ := exec_cases i s
  · obtain rfl := Option.some.inj (hfault.symm.trans h)
    exact hexec
  · cases hnone.symm.trans h

/-! ### A word that is no command's encoding (rules R105 to R108 and R264) -/

section

variable {w : Cmd} {i : Instr}

theorem decode_error_of_unencoded (hw : ∀ i : Instr, encode i ≠ w) : ∃ err, decode w = .error err := by
  cases hd : decode w with
  | ok i => exact absurd (encodeOfDecode w i hd) (hw i)
  | error err => exact ⟨err, rfl⟩

theorem rejected_of_reservedSpace (hspace : HasReservedSpace i) : Rejected (encode i) := by
  intro s rest hin
  rw [step_of_decode_ok hin (decodeOfEncode i)]
  by_cases hhalt : Halted s
  · have hi : i ≠ .fstat := by
      rintro rfl
      exact hspace
    exact ⟨_, exec_of_faultOf (faultOf_of_halted hhalt hi), fun hrun => absurd hhalt hrun,
      fun _ => raise_faultTaken _ _⟩
  · exact ⟨_, exec_of_faultOf (faultOf_of_reservedSpace hhalt hspace), fun _ => raise_faultTaken _ _,
      fun hhalt' => absurd hhalt' hhalt⟩

end

/-- Settles O5: a word that is no encoding does not decode, and only the halt comes before a reserved space code. -/
theorem illegalWordsReported : Obligations.IllegalWordsReported := by
  unfold Obligations.IllegalWordsReported
  rintro w (hw | ⟨space, addr, hspace, rfl⟩ | ⟨space, addr, data, hspace, rfl⟩)
  · obtain ⟨err, hd⟩ := decode_error_of_unencoded hw
    exact rejected_of_decode_error hd
  · exact rejected_of_reservedSpace (i := .mrd space addr) hspace
  · exact rejected_of_reservedSpace (i := .mwr space addr data) hspace

/-! ### What a word makes the block do (rules R262, R263, R270 and R271) -/

/-- A word takes a fault, or runs the command it decodes to and that concludes. -/
theorem step_word_cases {s : State} {w : Cmd} {rest : List HostInput} (hin : s.inputs = .command w :: rest) :
    (∃ e, step s = .next ({ s with inputs := rest }.raise e)) ∨
    ∃ i t, decode w = .ok i ∧ step s = .next t ∧ Concludes i { s with inputs := rest } t := by
  cases hd : decode w with
  | error err => exact .inl ⟨_, by rw [step_of_decode_error hin hd, State.rejectWord_eq]⟩
  | ok i =>
    rw [step_of_decode_ok hin hd]
    obtain ⟨e, -, hexec⟩ | ⟨t, -, hexec, ht⟩ := exec_cases i { s with inputs := rest }
    · exact .inl ⟨e, hexec⟩
    · exact .inr ⟨i, t, rfl, hexec, ht⟩

/-- Settles O17: the response of a command that concludes reports no fault, so the step was a fault's. -/
theorem faultHasNoOtherEffect : Obligations.FaultHasNoOtherEffect := by
  unfold Obligations.FaultHasNoOtherEffect
  intro s t w rest r hin hstep hresp herr
  obtain ⟨e, heq⟩ | ⟨i, t', -, heq, u, ok, data, events, rfl, -⟩ := step_word_cases hin <;>
    obtain rfl := Host.Outcome.next.inj (heq.symm.trans hstep)
  · obtain ⟨rfl, -⟩ := List.cons.inj hresp
    exact raise_faultTaken _ e
  · obtain ⟨rfl, -⟩ := List.cons.inj hresp
    exact absurd rfl herr

theorem recordFault_none (f : Byte) : recordFault .none f = f := BitVec.or_zero

theorem recordFault_halted (f : Byte) : recordFault .halted f = f := BitVec.or_zero

/-- Settles O18: a command takes the first fault of the list; a word that does not decode is halted or illegal. -/
theorem faultPriority : Obligations.FaultPriority := by
  unfold Obligations.FaultPriority
  rintro s w rest e hin (⟨i, hd, hreports⟩ | ⟨hw, rfl⟩)
  · rw [step_of_decode_ok hin hd]
    have he : (faultOf { s with inputs := rest } i).getD .none = e := faultOf_of_reports hreports
    obtain ⟨e', hfault, hexec⟩ | ⟨t, hnone, hexec, u, ok, data, events, rfl, hresp, hreg, -⟩ :=
      exec_cases i { s with inputs := rest }
    · obtain rfl : e' = e := by simpa [hfault] using he
      exact ⟨_, _, hexec, rfl, rfl, rfl⟩
    · obtain rfl : .none = e := by simpa [hnone] using he
      exact ⟨_, ⟨ok, .none, data, events⟩, hexec, by simp [hresp], rfl, by simp [hreg, recordFault_none]⟩
  · obtain ⟨err, hd⟩ := decode_error_of_unencoded hw
    rw [step_of_decode_error hin hd, State.rejectWord_eq]
    exact ⟨_, _, rfl, rfl, rfl, rfl⟩

/-! ### The halt (rules R263 and R269) -/

theorem raise_halted (s : State) :
    s.raise .halted = { s with responses := ⟨false, .halted, 0#32, []⟩ :: s.responses } := by
  rw [State.raise, recordFault_halted]
  rfl

theorem rejectWord_of_halted {s : State} (hhalt : Halted s) : s.rejectWord = .next (s.raise .halted) :=
  State.perform_of_some (if_pos hhalt)

/-- Settles O19: the halt is the first check of every word but FSTAT's, and raising `E_HALTED` sets no bit. -/
theorem haltRefusesAllButFstat : Obligations.HaltRefusesAllButFstat := by
  unfold Obligations.HaltRefusesAllButFstat
  refine fun s hhalt => ⟨fun w rest hin hw => ?_, fun rest hin => ?_, fun cut rest hin => ?_⟩
  · rw [← raise_halted { s with inputs := rest }]
    cases hd : decode w with
    | error err => exact (step_of_decode_error hin hd).trans (rejectWord_of_halted hhalt)
    | ok i =>
      rw [step_of_decode_ok hin hd]
      refine exec_of_faultOf (faultOf_of_halted hhalt ?_)
      rintro rfl
      exact hw (encodeOfDecode w _ hd).symm
  · exact step_of_decode_ok hin (decodeOfEncode .fstat)
  · exact ⟨_, by rw [step, State.takeInput, hin], by simp [Halted]⟩

/-- Settles O22: only a command that concludes has `err = 0`, and an offset past the capacity is past the elements. -/
theorem booleanResultsAreNoFaults : Obligations.BooleanResultsAreNoFaults := by
  unfold Obligations.BooleanResultsAreNoFaults
  intro i s t r hinv hexec hresp hok herr
  obtain ⟨e, hfault, heq⟩ | ⟨t', -, heq, u, ok, data, events, rfl, -, -, hfalse⟩ := exec_cases i s <;>
    obtain rfl := Host.Outcome.next.inj (heq.symm.trans hexec) <;>
    obtain ⟨rfl, -⟩ := List.cons.inj hresp
  · obtain rfl : e = .none := herr
    exact absurd hfault faultOf_ne_some_none
  · obtain ⟨rfl, hcase⟩ := hfalse hok
    refine ⟨rfl, ?_⟩
    cases i with
    | qappend h f => exact .inl ⟨h, f, rfl, hcase⟩
    | qpop | qread | qreadf | qsetf => exact .inr (.inl ⟨by simp, hcase⟩)
    | qpeek index | qpeekf index =>
      exact .inr (.inr ⟨index, by simp, hcase.elim hinv.fill.trans id⟩)
    | _ => exact hcase.elim

end Sys2Proof.Machine
end

section
/-! PROOFS of the statement of 70_reset_and_hazards.md. What a step is when the host presents nothing, and when it
presents hardware reset; the state after reset is then read off its own laws. -/

namespace Sys2Proof.Machine

theorem step_of_no_input {s : State} (hin : s.inputs = []) : step s = .next s := by
  simp [step, State.takeInput, hin]

theorem step_of_reset {s : State} {cut : Option Cmd} {rest : List HostInput}
    (hin : s.inputs = .reset cut :: rest) :
    step s = .next { s with inputs := rest }.hardwareReset := by
  simp [step, State.takeInput, hin]

theorem State.hardwareReset_no_valid_context {s : State} {c : Context} (hc : c ∈ s.hardwareReset.ctx) :
    c.valid = false := by
  rw [Context.empty_of_mem_resetWith hc]
  rfl

/-- Settles O11: a word cut short plays no part in reset (rule R290), which keeps the parameters and the inputs alone. -/
theorem hardwareResetOrWait : Obligations.HardwareResetOrWait := by
  unfold Obligations.HardwareResetOrWait
  intro s
  refine ⟨step_of_no_input, fun cut rest hin => ⟨_, step_of_reset hin, ?_⟩⟩
  have hvalid : ∀ c ∈ { s with inputs := rest }.hardwareReset.ctx, c.valid = false :=
    fun c hc => State.hardwareReset_no_valid_context hc
  have hlength : { s with inputs := rest }.hardwareReset.ctx.length = s.params.nCtx := by simp
  exact ⟨rfl, rfl, rfl, hlength, hvalid, rfl, rfl, rfl, rfl, rfl, rfl, rfl⟩

end Sys2Proof.Machine
end
